-- ==== Sys2Proof/Word.lean ====
section
/-! DEFINITION. The word types of the Hawk: register and address words, halfwords, bytes, register fields. -/

namespace Sys2Proof

/-- A general register, the program counter, an address, a memory word: 32 bits (00_scope.md R5). -/
abbrev Word := BitVec 32

/-- The instruction granule: 16 bits (00_scope.md R5, R7). -/
abbrev Half := BitVec 16

/-- The unit an address counts: 8 bits (20_memory.md R61). -/
abbrev Byte := BitVec 8

/-- A 4-bit field of the first halfword: a register number, a small constant, or an index into
`adj`, `co` or `cpu` (00_scope.md R5). Number 0 never names a general register (10_state.md R21). -/
abbrev Nibble := BitVec 4

end Sys2Proof
end

