-- ==== Sys2Proof/Syntax.lean ====
section
/-! DEFINITION. The instructions: one constructor per row of spec/opcode_table.json. Fields are the encoded
fields of 30_encoding.md R95; what a field of 0 means is the instruction's own note (R96 to R102). -/

namespace Sys2Proof

/-- A field of an instruction, as a refusal names it (30_encoding.md R96). -/
inductive Field where
  | dst
  | x
  | s1
  | s2
  | src
  deriving DecidableEq, Repr

/-- One constructor per row of the opcode table. `s` and `b` fields hold the encoded nibble, where 0 stands
for 16; `c` of ADDSI the encoded nibble, where 0 stands for 8 (30_encoding.md R101). -/
inductive Instr where
  -- Short Memory Reference Format (40_short_memory_reference.md)
  | move (dst x : Nibble)
  | movecc (dst x : Nibble)
  | loads (dst x : Nibble)
  | loadscc (dst x : Nibble)
  | jsrs (dst x : Nibble)
  | stores (srcx x : Nibble)
  | loadl (dst x : Nibble)
  | storec (srcx x : Nibble)
  -- Memory Reference Format (41_memory_reference.md)
  | lea (dst x : Nibble) (disp : Half)
  | leacc (dst x : Nibble) (disp : Half)
  | load (dst x : Nibble) (disp : Half)
  | loadcc (dst x : Nibble) (disp : Half)
  | jsr (dst x : Nibble) (disp : Half)
  | store (srcx x : Nibble) (disp : Half)
  -- Long and Short Immediate Formats (42_immediate.md)
  | lil (dst : Nibble) (const : BitVec 24)
  | lis (dst : Nibble) (const : Byte)
  | oris (dst : Nibble) (const : Byte)
  -- Shift Format (43_shift.md)
  | movesl (dst s1 s : Nibble)
  | addsl (dst s1 s : Nibble)
  | addsr (dst s1 s : Nibble)
  | addsru (dst s1 s : Nibble)
  -- Byte and Halfword Format (44_byte_halfword.md)
  | stuffb (dst s1 s2 : Nibble)
  | stuffh (dst s1 s2 : Nibble)
  | extb (dst s1 s2 : Nibble)
  | exth (dst s1 s2 : Nibble)
  -- Add and Subtract Format (45_add_subtract.md)
  | add (dst s1 s2 : Nibble)
  | sub (dst s1 s2 : Nibble)
  -- Short Constant Format (46_short_constant.md)
  | trunc (dst b : Nibble)
  | sxt (dst b : Nibble)
  | btrunc (dst b : Nibble)
  | addsi (dst c : Nibble)
  -- Two Register Format (47_two_register.md)
  | and (dst src : Nibble)
  | or (dst src : Nibble)
  | equ (dst src : Nibble)
  | addc (dst src : Nibble)
  | subb (dst src : Nibble)
  -- Special Format (48_special.md)
  | adjust (dst src : Nibble)
  | plus (dst src : Nibble)
  | coget (dst src : Nibble)
  | coset (srcx src : Nibble)
  | cpuget (dst src : Nibble)
  | cpuset (srcx src : Nibble)
  -- Branch Format (49_branch.md)
  | br (disp : Byte)
  | bns (disp : Byte)
  | bzs (disp : Byte)
  | bvs (disp : Byte)
  | bcs (disp : Byte)
  | blt (disp : Byte)
  | ble (disp : Byte)
  | bleu (disp : Byte)
  | bnr (disp : Byte)
  | bzr (disp : Byte)
  | bvr (disp : Byte)
  | bcr (disp : Byte)
  | bge (disp : Byte)
  | bgt (disp : Byte)
  | bgtu (disp : Byte)
  -- The four unassigned encodings (30_encoding.md R114)
  | unassignedMem1 (dst x : Nibble)
  | unassignedMem0 (dst x : Nibble)
  | unassignedTwoReg (dst src : Nibble)
  | unassignedBranch (disp : Byte)
  -- Derived names: other spellings of a machine instruction (30_encoding.md R118)
  | testr (x : Nibble)
  | tests (x : Nibble)
  | jumps (x : Nibble)
  | bittst31 (x : Nibble)
  | addi (dst x : Nibble) (disp : Half)
  /-- The operand is `c`, the constant compared with; the stored displacement is its negative (R159). -/
  | cmpi (x : Nibble) (c : Half)
  | test (x : Nibble) (disp : Half)
  | jump (x : Nibble) (disp : Half)
  | clr (dst : Nibble)
  | sl (dst s : Nibble)
  | sr (dst s : Nibble)
  | sru (dst s : Nibble)
  /-- `BITTST r,b` for 0 ≤ b ≤ 15, by its count `s = b + 1` (R188). -/
  | bittstLow (r s : Nibble)
  /-- `BITTST r,b` for 16 ≤ b ≤ 30, by its count `s = 31 - b` (R189). -/
  | bittstHigh (r s : Nibble)
  | neg (dst s2 : Nibble)
  | cmp (s1 s2 : Nibble)
  | not (dst : Nibble)
  | rol (dst : Nibble)
  | rtt
  | bltu (disp : Byte)
  | bne (disp : Byte)
  | bgeu (disp : Byte)
  | beq (disp : Byte)
  | nop
  -- Assembler-level names (30_encoding.md R121)
  | liw (dst : Nibble) (const : Word)
  /-- `bit` is the bit number of the BITTST before it, which chooses the condition (43_shift.md R191). -/
  | bbs (bit : BitVec 5) (disp : Byte)
  | bbr (bit : BitVec 5) (disp : Byte)
  deriving DecidableEq, Repr

end Sys2Proof
end

