-- ==== Sys2Proof/WellFormed.lean ====
section
/-! DEFINITION. Which instruction terms are well formed: every field whose note is (nz) is not zero
(30_encoding.md R96, R102), and a BITTST of a high bit has the count its range gives (43_shift.md R189). -/

namespace Sys2Proof

/-- The fields of an instruction that must not be zero, from the table of 30_encoding.md R102; for a derived
name the fields of its own row (R118). -/
def Instr.nzFields : Instr → List Nibble
  | .move dst _ | .lea dst _ _ | .lis dst _ | .oris dst _ => [dst]
  | .stores _ x | .loadl _ x | .storec _ x => [x]
  | .movesl _ s1 _ | .extb _ s1 _ | .exth _ s1 _ => [s1]
  | .addsl dst _ _ | .stuffb dst _ _ | .stuffh dst _ _ => [dst]
  | .add _ s1 s2 => [s1, s2]
  | .sub _ _ s2 => [s2]
  | .trunc dst _ | .sxt dst _ | .btrunc dst _ | .addsi dst _ => [dst]
  | .and dst src | .or dst src => [dst, src]
  | .equ dst _ | .adjust dst _ | .plus dst _ => [dst]
  | .movecc _ _ | .loads _ _ | .loadscc _ _ | .jsrs _ _ => []
  | .leacc _ _ _ | .load _ _ _ | .loadcc _ _ _ | .jsr _ _ _ | .store _ _ _ | .lil _ _ => []
  | .addsr _ _ _ | .addsru _ _ _ | .addc _ _ | .subb _ _ => []
  | .coget _ _ | .coset _ _ | .cpuget _ _ | .cpuset _ _ => []
  | .br _ | .bns _ | .bzs _ | .bvs _ | .bcs _ | .blt _ | .ble _ | .bleu _ => []
  | .bnr _ | .bzr _ | .bvr _ | .bcr _ | .bge _ | .bgt _ | .bgtu _ => []
  | .unassignedMem1 _ _ | .unassignedMem0 _ _ | .unassignedTwoReg _ _ | .unassignedBranch _ => []
  | .testr _ | .tests _ | .jumps _ | .bittst31 _ => []
  | .addi _ _ _ | .cmpi _ _ | .test _ _ | .jump _ _ => []
  | .clr dst | .sl dst _ | .not dst | .liw dst _ => [dst]
  | .sr _ _ | .sru _ _ | .bittstLow _ _ | .rol _ => []
  -- its count 1 to 15 is not zero either: 16 ≤ b ≤ 30
  | .bittstHigh r s => [r, s]
  | .neg _ s2 | .cmp _ s2 => [s2]
  | .rtt | .nop | .bltu _ | .bne _ | .bgeu _ | .beq _ | .bbs _ _ | .bbr _ _ => []

/-- No field that must not be zero is zero. -/
def Instr.wellFormed (i : Instr) : Bool :=
  i.nzFields.all (· != 0#4)

end Sys2Proof
end

