-- ==== Sys2Proof/Decode.lean ====
section
/-! DEFINITION. The decoder, total on any bytes and rejecting by name, and after it the encoder, both from the
encoding tables of 30_encoding.md. -/

namespace Sys2Proof

/-! ## The first halfword, R90 -/

/-- The major opcode, `I[7:4]`. -/
def opField (I : Half) : Nibble := I.extractLsb' 4 4

/-- `dst`, `srcx` or `cond`, `I[3:0]`. -/
def dstField (I : Half) : Nibble := I.extractLsb' 0 4

/-- `op2` or `s1`, `I[15:12]`. -/
def f1Field (I : Half) : Nibble := I.extractLsb' 12 4

/-- `x`, `s2` or `src`, `I[11:8]`. -/
def f2Field (I : Half) : Nibble := I.extractLsb' 8 4

/-- `const` or the branch `disp`, `I[15:8]`. -/
def constField (I : Half) : Byte := I.extractLsb' 8 8

/-! ## Decoding -/

/-- Whether an instruction is 32 bits long: LIL, and the Memory Reference Format with its two unassigned rows
(R92). -/
def isLong (I : Half) : Bool :=
  opField I == 14#4 || (opField I == 15#4 && f1Field I < 8#4)

/-- The row of R110 that `op2` selects under `op` = 1111. -/
def decodeMemory (I J : Half) : Instr :=
  let dst := dstField I
  let x := f2Field I
  match f1Field I with
  | 15 => .move dst x
  | 14 => .movecc dst x
  | 13 => .loads dst x
  | 12 => .loadscc dst x
  | 11 => .jsrs dst x
  | 10 => .stores dst x
  | 9 => .loadl dst x
  | 8 => .storec dst x
  | 7 => .lea dst x J
  | 6 => .leacc dst x J
  | 5 => .load dst x J
  | 4 => .loadcc dst x J
  | 3 => .jsr dst x J
  | 2 => .store dst x J
  | 1 => .unassignedMem1 dst x
  | _ => .unassignedMem0 dst x -- 0000

/-- The row of R111 that `op2` selects under `op` = 0001. -/
def decodeRegister (I : Half) : Instr :=
  let dst := dstField I
  let src := f2Field I
  match f1Field I with
  | 15 => .trunc dst src
  | 14 => .sxt dst src
  | 13 => .btrunc dst src
  | 12 => .addsi dst src
  | 11 => .and dst src
  | 10 => .or dst src
  | 9 => .equ dst src
  | 8 => .unassignedTwoReg dst src
  | 7 => .addc dst src
  | 6 => .subb dst src
  | 5 => .adjust dst src
  | 4 => .plus dst src
  | 3 => .coget dst src
  | 2 => .coset dst src
  | 1 => .cpuget dst src
  | _ => .cpuset dst src -- 0000

/-- The row of R112 that `cond` selects under `op` = 0000. -/
def decodeBranch (I : Half) : Instr :=
  let disp := constField I
  match dstField I with
  | 1 => .bns disp
  | 2 => .bzs disp
  | 3 => .bvs disp
  | 4 => .bcs disp
  | 5 => .blt disp
  | 6 => .ble disp
  | 7 => .bleu disp
  | 8 => .unassignedBranch disp
  | 9 => .bnr disp
  | 10 => .bzr disp
  | 11 => .bvr disp
  | 12 => .bcr disp
  | 13 => .bge disp
  | 14 => .bgt disp
  | 15 => .bgtu disp
  | _ => .br disp -- 0000

/-- The row of the opcode map (R91, R110 to R113) that `I` selects, with its fields; `J` is the second
halfword, read only where there is one. Fields that must not be zero are checked after it. -/
def decodeRow (I J : Half) : Instr :=
  let dst := dstField I
  let s1 := f1Field I
  let s2 := f2Field I
  match opField I with
  | 15 => decodeMemory I J
  | 14 => .lil dst (J ++ constField I)
  | 13 => .lis dst (constField I)
  | 12 => .oris dst (constField I)
  | 11 => .movesl dst s1 s2
  | 10 => .addsl dst s1 s2
  | 9 => .addsr dst s1 s2
  | 8 => .addsru dst s1 s2
  | 7 => .stuffb dst s1 s2
  | 6 => .stuffh dst s1 s2
  | 5 => .extb dst s1 s2
  | 4 => .exth dst s1 s2
  | 3 => .add dst s1 s2
  | 2 => .sub dst s1 s2
  | 1 => decodeRegister I
  | _ => decodeBranch I -- 0000

/-- The first of the listed fields that is zero. -/
def firstZero : List (Field × Nibble) → Option Field
  | [] => none
  | (f, n) :: rest => if n = 0#4 then some f else firstZero rest

/-- The mnemonic and the first zero field of a decoded row one of whose (nz) fields is zero (R115). A row
without an (nz) field has none; the decoder answers no derived name. -/
def reservedOperand : Instr → Option (String × Field)
  | .move dst _ => (firstZero [(.dst, dst)]).map (("MOVE", ·))
  | .lea dst _ _ => (firstZero [(.dst, dst)]).map (("LEA", ·))
  | .stores _ x => (firstZero [(.x, x)]).map (("STORES", ·))
  | .loadl _ x => (firstZero [(.x, x)]).map (("LOADL", ·))
  | .storec _ x => (firstZero [(.x, x)]).map (("STOREC", ·))
  | .lis dst _ => (firstZero [(.dst, dst)]).map (("LIS", ·))
  | .oris dst _ => (firstZero [(.dst, dst)]).map (("ORIS", ·))
  | .movesl _ s1 _ => (firstZero [(.s1, s1)]).map (("MOVESL", ·))
  | .addsl dst _ _ => (firstZero [(.dst, dst)]).map (("ADDSL", ·))
  | .stuffb dst _ _ => (firstZero [(.dst, dst)]).map (("STUFFB", ·))
  | .stuffh dst _ _ => (firstZero [(.dst, dst)]).map (("STUFFH", ·))
  | .extb _ s1 _ => (firstZero [(.s1, s1)]).map (("EXTB", ·))
  | .exth _ s1 _ => (firstZero [(.s1, s1)]).map (("EXTH", ·))
  | .add _ s1 s2 => (firstZero [(.s1, s1), (.s2, s2)]).map (("ADD", ·))
  | .sub _ _ s2 => (firstZero [(.s2, s2)]).map (("SUB", ·))
  | .trunc dst _ => (firstZero [(.dst, dst)]).map (("TRUNC", ·))
  | .sxt dst _ => (firstZero [(.dst, dst)]).map (("SXT", ·))
  | .btrunc dst _ => (firstZero [(.dst, dst)]).map (("BTRUNC", ·))
  | .addsi dst _ => (firstZero [(.dst, dst)]).map (("ADDSI", ·))
  | .and dst src => (firstZero [(.dst, dst), (.src, src)]).map (("AND", ·))
  | .or dst src => (firstZero [(.dst, dst), (.src, src)]).map (("OR", ·))
  | .equ dst _ => (firstZero [(.dst, dst)]).map (("EQU", ·))
  | .adjust dst _ => (firstZero [(.dst, dst)]).map (("ADJUST", ·))
  | .plus dst _ => (firstZero [(.dst, dst)]).map (("PLUS", ·))
  | _ => none

/-- What the decoder answers to two halfwords. -/
inductive Decoded where
  /-- The instruction, its operands fully determined (R117). -/
  | ok (i : Instr)
  /-- A field whose note is (nz) is zero: the encoding has no meaning (R96, R115). -/
  | reserved (mnemonic : String) (field : Field)
  deriving DecidableEq, Repr

/-- Decoding of R117: look up the row, then refuse a zero in an (nz) field. An unassigned row decodes to its
own constructor, whose meaning raises F_ILLEGAL. -/
def decode (I J : Half) : Decoded :=
  match reservedOperand (decodeRow I J) with
  | some (m, f) => .reserved m f
  | none => .ok (decodeRow I J)

/-- The four unassigned encodings (R114). -/
def isUnassigned : Instr → Bool
  | .unassignedMem1 _ _ | .unassignedMem0 _ _ | .unassignedTwoReg _ _ | .unassignedBranch _ => true
  | _ => false

/-- What the decoder answers to a list of bytes. -/
inductive DecodedBytes where
  | ok (i : Instr) (rest : List Byte)
  | reserved (mnemonic : String) (field : Field)
  /-- The list ends before the instruction does. -/
  | truncated
  deriving DecidableEq, Repr

/-- The decoder on bytes in memory order, each halfword low byte first (20_memory.md R60, R62). A reserved
operand is refused on the first halfword (60_exceptions.md R311). -/
def decodeBytes : List Byte → DecodedBytes
  | b0 :: b1 :: rest =>
    let I : Half := b1 ++ b0
    match decode I 0#16 with
    | .reserved m f => .reserved m f
    | .ok i =>
      if isLong I then
        match rest with
        | b2 :: b3 :: rest' =>
          match decode I (b3 ++ b2) with
          | .ok j => .ok j rest'
          | .reserved m f => .reserved m f
        | _ => .truncated
      else .ok i rest
  | _ => .truncated

/-- `n` bytes of `w`, least significant first. -/
def littleEndianBytes : Nat → Nat → List Byte
  | 0, _ => []
  | n + 1, w => BitVec.ofNat 8 (w % 256) :: littleEndianBytes n (w / 256)

/-- The bytes of an instruction whose bits are `w`, at least the longest machine instruction's four: the bits
above `nbits` are 0. -/
def tableWordBytes (nbits w : Nat) : List Byte :=
  littleEndianBytes (max (nbits / 8) 4) (w % 2 ^ nbits)

/-- The instruction the decoder reads from an instruction whose bits are `w`, first word least significant. -/
def decodeTableWord (nbits w : Nat) : Option Instr :=
  match decodeBytes (tableWordBytes nbits w) with
  | .ok i _ => some i
  | _ => none

/-! ## Encoding -/

/-- A first halfword from its four fields, `{f1, f2, op, dst}` (R90). -/
def halfOf (f1 f2 op dst : Nibble) : Half := f1 ++ f2 ++ op ++ dst

/-- A first halfword whose high byte is a constant or a branch displacement. -/
def halfOfByte (c : Byte) (op dst : Nibble) : Half := c ++ op ++ dst

/-- The nibble that stands for a derived BITTST's branch condition: N for the bits 16 to 31, C for the bits 0
to 15 (43_shift.md R191). -/
def bitCond (bit : BitVec 5) (inN inC : Nibble) : Nibble := if 16#5 ≤ bit then inN else inC

/-- The halfwords of an instruction, in memory order, from the tables of R95 and R110 to R113; a derived name
is spelled as R118 says, LIW as the sequence of R121. The second halfword of an unassigned memory row has no
meaning and is written as 0: log entry 30. -/
def encode : Instr → List Half
  | .move dst x => [halfOf 15#4 x 15#4 dst]
  | .movecc dst x => [halfOf 14#4 x 15#4 dst]
  | .loads dst x => [halfOf 13#4 x 15#4 dst]
  | .loadscc dst x => [halfOf 12#4 x 15#4 dst]
  | .jsrs dst x => [halfOf 11#4 x 15#4 dst]
  | .stores srcx x => [halfOf 10#4 x 15#4 srcx]
  | .loadl dst x => [halfOf 9#4 x 15#4 dst]
  | .storec srcx x => [halfOf 8#4 x 15#4 srcx]
  | .lea dst x disp => [halfOf 7#4 x 15#4 dst, disp]
  | .leacc dst x disp => [halfOf 6#4 x 15#4 dst, disp]
  | .load dst x disp => [halfOf 5#4 x 15#4 dst, disp]
  | .loadcc dst x disp => [halfOf 4#4 x 15#4 dst, disp]
  | .jsr dst x disp => [halfOf 3#4 x 15#4 dst, disp]
  | .store srcx x disp => [halfOf 2#4 x 15#4 srcx, disp]
  | .lil dst const => [halfOfByte (const.extractLsb' 0 8) 14#4 dst, const.extractLsb' 8 16]
  | .lis dst const => [halfOfByte const 13#4 dst]
  | .oris dst const => [halfOfByte const 12#4 dst]
  | .movesl dst s1 s => [halfOf s1 s 11#4 dst]
  | .addsl dst s1 s => [halfOf s1 s 10#4 dst]
  | .addsr dst s1 s => [halfOf s1 s 9#4 dst]
  | .addsru dst s1 s => [halfOf s1 s 8#4 dst]
  | .stuffb dst s1 s2 => [halfOf s1 s2 7#4 dst]
  | .stuffh dst s1 s2 => [halfOf s1 s2 6#4 dst]
  | .extb dst s1 s2 => [halfOf s1 s2 5#4 dst]
  | .exth dst s1 s2 => [halfOf s1 s2 4#4 dst]
  | .add dst s1 s2 => [halfOf s1 s2 3#4 dst]
  | .sub dst s1 s2 => [halfOf s1 s2 2#4 dst]
  | .trunc dst b => [halfOf 15#4 b 1#4 dst]
  | .sxt dst b => [halfOf 14#4 b 1#4 dst]
  | .btrunc dst b => [halfOf 13#4 b 1#4 dst]
  | .addsi dst c => [halfOf 12#4 c 1#4 dst]
  | .and dst src => [halfOf 11#4 src 1#4 dst]
  | .or dst src => [halfOf 10#4 src 1#4 dst]
  | .equ dst src => [halfOf 9#4 src 1#4 dst]
  | .addc dst src => [halfOf 7#4 src 1#4 dst]
  | .subb dst src => [halfOf 6#4 src 1#4 dst]
  | .adjust dst src => [halfOf 5#4 src 1#4 dst]
  | .plus dst src => [halfOf 4#4 src 1#4 dst]
  | .coget dst src => [halfOf 3#4 src 1#4 dst]
  | .coset srcx src => [halfOf 2#4 src 1#4 srcx]
  | .cpuget dst src => [halfOf 1#4 src 1#4 dst]
  | .cpuset srcx src => [halfOf 0#4 src 1#4 srcx]
  | .br disp => [halfOfByte disp 0#4 0#4]
  | .bns disp => [halfOfByte disp 0#4 1#4]
  | .bzs disp => [halfOfByte disp 0#4 2#4]
  | .bvs disp => [halfOfByte disp 0#4 3#4]
  | .bcs disp => [halfOfByte disp 0#4 4#4]
  | .blt disp => [halfOfByte disp 0#4 5#4]
  | .ble disp => [halfOfByte disp 0#4 6#4]
  | .bleu disp => [halfOfByte disp 0#4 7#4]
  | .bnr disp => [halfOfByte disp 0#4 9#4]
  | .bzr disp => [halfOfByte disp 0#4 10#4]
  | .bvr disp => [halfOfByte disp 0#4 11#4]
  | .bcr disp => [halfOfByte disp 0#4 12#4]
  | .bge disp => [halfOfByte disp 0#4 13#4]
  | .bgt disp => [halfOfByte disp 0#4 14#4]
  | .bgtu disp => [halfOfByte disp 0#4 15#4]
  | .unassignedMem1 dst x => [halfOf 1#4 x 15#4 dst, 0#16]
  | .unassignedMem0 dst x => [halfOf 0#4 x 15#4 dst, 0#16]
  | .unassignedTwoReg dst src => [halfOf 8#4 src 1#4 dst]
  | .unassignedBranch disp => [halfOfByte disp 0#4 8#4]
  | .testr x => [halfOf 14#4 x 15#4 0#4]
  | .tests x => [halfOf 12#4 x 15#4 0#4]
  | .jumps x => [halfOf 11#4 x 15#4 0#4]
  | .bittst31 x => [halfOf 14#4 x 15#4 0#4]
  | .addi dst x disp => [halfOf 6#4 x 15#4 dst, disp]
  | .cmpi x c => [halfOf 6#4 x 15#4 0#4, -c]
  | .test x disp => [halfOf 4#4 x 15#4 0#4, disp]
  | .jump x disp => [halfOf 3#4 x 15#4 0#4, disp]
  | .clr dst => [halfOfByte 0#8 13#4 dst]
  | .sl dst s => [halfOf 0#4 s 10#4 dst]
  | .sr dst s => [halfOf 0#4 s 9#4 dst]
  | .sru dst s => [halfOf 0#4 s 8#4 dst]
  | .bittstLow r s => [halfOf r s 9#4 0#4]
  | .bittstHigh r s => [halfOf r s 11#4 0#4]
  | .neg dst s2 => [halfOf 0#4 s2 2#4 dst]
  | .cmp s1 s2 => [halfOf s1 s2 2#4 0#4]
  | .not dst => [halfOf 9#4 0#4 1#4 dst]
  | .rol dst => [halfOf 7#4 dst 1#4 dst]
  | .rtt => [0x1110#16]
  | .bltu disp => [halfOfByte disp 0#4 12#4]
  | .bne disp => [halfOfByte disp 0#4 10#4]
  | .bgeu disp => [halfOfByte disp 0#4 4#4]
  | .beq disp => [halfOfByte disp 0#4 2#4]
  | .nop => [0#16]
  | .liw dst const =>
    [halfOfByte (const.extractLsb' 8 8) 14#4 dst, const.extractLsb' 16 16,
      halfOfByte (const.extractLsb' 0 8) 12#4 dst]
  | .bbs bit disp => [halfOfByte disp 0#4 (bitCond bit 1#4 4#4)]
  | .bbr bit disp => [halfOfByte disp 0#4 (bitCond bit 9#4 12#4)]

/-- Halfwords as bytes in memory, low byte first (20_memory.md R60). -/
def bytesOf : List Half → List Byte
  | [] => []
  | h :: rest => h.extractLsb' 0 8 :: h.extractLsb' 8 8 :: bytesOf rest

/-- The machine instructions an instruction stands for: itself, or for a derived name its base instruction
with the fixed fields of R118, or for an assembler-level name the expansion of R121. -/
def expansion : Instr → List Instr
  | .testr x => [.movecc 0#4 x]
  | .tests x => [.loadscc 0#4 x]
  | .jumps x => [.jsrs 0#4 x]
  | .bittst31 x => [.movecc 0#4 x]
  | .addi dst x disp => [.leacc dst x disp]
  | .cmpi x c => [.leacc 0#4 x (-c)]
  | .test x disp => [.loadcc 0#4 x disp]
  | .jump x disp => [.jsr 0#4 x disp]
  | .clr dst => [.lis dst 0#8]
  | .sl dst s => [.addsl dst 0#4 s]
  | .sr dst s => [.addsr dst 0#4 s]
  | .sru dst s => [.addsru dst 0#4 s]
  | .bittstLow r s => [.addsr 0#4 r s]
  | .bittstHigh r s => [.movesl 0#4 r s]
  | .neg dst s2 => [.sub dst 0#4 s2]
  | .cmp s1 s2 => [.sub 0#4 s1 s2]
  | .not dst => [.equ dst 0#4]
  | .rol dst => [.addc dst dst]
  | .rtt => [.cpuget 0#4 1#4]
  | .bltu disp => [.bcr disp]
  | .bne disp => [.bzr disp]
  | .bgeu disp => [.bcs disp]
  | .beq disp => [.bzs disp]
  | .nop => [.br 0#8]
  | .liw dst const => [.lil dst (const.extractLsb' 8 24), .oris dst (const.extractLsb' 0 8)]
  | .bbs bit disp => [if 16#5 ≤ bit then .bns disp else .bcs disp]
  | .bbr bit disp => [if 16#5 ≤ bit then .bnr disp else .bcr disp]
  | i => [i]

end Sys2Proof
end

