-- ==== Sys2Proof/Config.lean ====
section
/-! DEFINITION. What the spec leaves to a configuration (00_scope.md R6): the switches, which are plain data
and stand in the state's field `config`, and the open functions and free values, which are opaque constants. -/

namespace Sys2Proof

/-- The four condition codes (10_state.md R30). -/
structure Flags where
  n : Bool
  z : Bool
  v : Bool
  c : Bool
  deriving DecidableEq, Repr, Inhabited

/-- A value for V and one for C, where the spec leaves both to one open function (10_state.md R35). -/
structure VC where
  v : Bool
  c : Bool
  deriving DecidableEq, Repr, Inhabited

/-- `SIGNED_COND`: the sense of BLT, BLE, BGE, BGT (49_branch.md R268). -/
inductive SignedCond where
  | printed
  | conventional
  deriving DecidableEq, Repr

/-- `ADDSR_SUM`: whether ADDSR and ADDSRU shift the exact 33-bit sum or the wrapped one (43_shift.md R182). -/
inductive SumWidth where
  | wide
  | narrow
  deriving DecidableEq, Repr

/-- `EXT_N`: what N is after EXTB and EXTH (44_byte_halfword.md R202). -/
inductive ExtN where
  | bit31
  | msbOfField
  deriving DecidableEq, Repr

/-- The sense of a right shift: the third argument of `cc_shr_V` (10_state.md R35). -/
inductive ShiftSense where
  | signed
  | unsigned
  deriving DecidableEq, Repr

/-- What a word of the address space holds (20_memory.md R68). -/
inductive RegionKind where
  | ram
  | rom
  | device
  | none
  deriving DecidableEq, Repr

/-- One region of `MEMMAP`: bytes `base` to `base + size - 1`, its kind, and the accesses it admits
(20_memory.md R68, 60_exceptions.md R302). -/
structure Region where
  base : Nat
  size : Nat
  kind : RegionKind
  readable : Bool
  writable : Bool
  executable : Bool
  deriving DecidableEq, Repr

/-- `PRIV`: for each instruction that consults it, the levels that may not run it (bit `k` of a mask is
level `k`); every predicate `priv_ok(instr, level)` is one of these (60_exceptions.md R320). -/
structure PrivMasks where
  coget : Half
  coset : Half
  cpuget : Half
  cpuset : Half
  rtt : Half
  deriving DecidableEq, Repr

/-- `TRAP_ENTRY`: for each fault of 60_exceptions.md R300 the address of its handler; `none` where the
fault is terminal (60_exceptions.md R305). -/
structure TrapVectors where
  illegal : Option Word
  bus : Option Word
  pcOdd : Option Word
  priv : Option Word
  coproc : Option Word
  deriving DecidableEq, Repr

/-- The parameters a model takes as an argument (00_scope.md R6) that are plain data. -/
structure Config where
  signedCond : SignedCond
  addsrSum : SumWidth
  extN : ExtN
  /-- The value V takes when a STOREC fails. -/
  storecVFail : Bool
  /-- Bit `k`: the configuration defines `cpu[k]`. Entry 1 is tpc whatever bit 1 says. -/
  cpuMap : Half
  /-- Bit `k`, 0 to 7: the configuration defines `adj[k]` (48_special.md R245). Entries 8 to 15 are decided. -/
  adjMap : Byte
  /-- Bit `k`: there is a coprocessor behind `co[k]`. -/
  coMap : Half
  priv : PrivMasks
  memMap : List Region
  traps : TrapVectors
  deriving DecidableEq, Repr

/-- One region of RAM over the whole address space, admitting every access (92_eei_decisions.md, "What a
minimal model may fix"). DESIGN CHOICE, unsafe: log entry 3. -/
def Config.flatRam : List Region :=
  [{ base := 0, size := 2 ^ 32, kind := .ram, readable := true, writable := true, executable := true }]

/-- `PRIV = none`: every level may run every instruction (60_exceptions.md R320). -/
def Config.privNone : PrivMasks :=
  { coget := 0, coset := 0, cpuget := 0, cpuset := 0, rtt := 0 }

/-- The base model: every fault is terminal (60_exceptions.md R305). -/
def Config.terminalTraps : TrapVectors :=
  { illegal := none, bus := none, pcOdd := none, priv := none, coproc := none }

/-- The optional sketch of trap entry with the family's vectors (60_exceptions.md R305). `F_PC_ODD` is a
modelling guard and has no vector (R303). PRESUMED, unsafe: log entry 16. -/
def Config.sketchTraps : TrapVectors :=
  { illegal := some 0x20, bus := some 0x10, pcOdd := none, priv := some 0x30, coproc := some 0x50 }

/-- The configuration at reset: every switch at the value 00_scope.md R6 gives as the decision or default.
`cpuMap` is the family's (PRESUMED, log entry 7), `adjMap` defines every entry (log entry 11), `memMap` is flat
RAM (log entry 3). -/
def Config.base : Config :=
  { signedCond := .printed
    addsrSum := .wide
    extN := .bit31
    storecVFail := true
    cpuMap := 0x010F
    adjMap := 0xFF
    coMap := 0
    priv := Config.privNone
    memMap := Config.flatRam
    traps := Config.terminalTraps }

/-! The open configuration functions of 10_state.md R35 (log entry 10). No body: nothing can be proved of
their values. -/

/-- `cc_load_VC(word)`: V and C after LOADCC, LOADSCC, LOADL. -/
opaque Config.ccLoadVC : Word → VC

/-- `cc_shl_VC(shifted operand, s, addend)`: V and C after MOVESL, ADDSL. -/
opaque Config.ccShlVC : Word → Nat → Word → VC

/-- `cc_shr_V(sum, s, sense)`: V after ADDSR, ADDSRU. -/
opaque Config.ccShrV : Word → Nat → ShiftSense → Bool

/-- `cc_trunc_VC(old, b)`: V and C after TRUNC. -/
opaque Config.ccTruncVC : Word → Nat → VC

/-- `cc_sxt_VC(old, b)`: V and C after SXT. -/
opaque Config.ccSxtVC : Word → Nat → VC

/-- `cc_coget(src, value)`: N, Z, V and C after COGET. -/
opaque Config.ccCoget : Nibble → Word → Flags

/-- `adj(src, status)` for the entries 0 to 7 that 48_special.md R245 leaves open; the second argument is
the processor status word (log entry 11). -/
opaque Config.adjOpen : Nibble → Word → Word

/-! Free values: the first argument is the count of draws made so far. -/

/-- The draw of a STOREC whose reservation is still held (20_memory.md R74; log entry 12). -/
opaque Config.storecDraw : Nat → Bool

/-- `co_read(src)`: what the coprocessor answers, given the words last written to `co` (48_special.md R247;
log entry 13). -/
opaque Config.coRead : Nat → Nibble → Vector Word 16 → Word

/-- What a device answers to a load at a word address, given the stores made to devices so far
(20_memory.md R67; log entry 14). -/
opaque Config.deviceRead : Nat → Word → List (Word × Word) → Word

/-- What the bits of the processor status word that are not implemented read as (10_state.md R43; log
entry 8). -/
opaque Config.pswFree : Nat → Word

end Sys2Proof
end

