-- ==== Sys2Proof/Machine/State.lean ====
section
/-! DEFINITION. The state of the machine as plain data, the reasons a step can stop, and the state after
reset (10_state.md). -/

namespace Sys2Proof.Machine

/-- Memory: (address, byte) pairs, addresses strictly rising, none equal to what an unlisted address reads
as (10_state.md R46, 20_memory.md R61). The operations are in Ops.lean. -/
abbrev Memory := List Host.Cell

/-- The machine. -/
structure State where
  /-- x[1] to x[15]; entry `k - 1` is x[k]. Number 0 has no storage (10_state.md R20, R21). -/
  regs : Vector Word 15
  /-- The program counter: the address of the next instruction to run (10_state.md R25). -/
  pc : Word
  /-- N, Z, V, C (10_state.md R30). -/
  cc : Flags
  /-- The current level (10_state.md R41); its width is PRESUMED (log entry 7). -/
  level : BitVec 4
  /-- The prior level (10_state.md R41). -/
  prior : BitVec 4
  /-- The BCD carry bits of the processor status word (10_state.md R42). -/
  bcd : BitVec 8
  /-- cpu[1] to cpu[15]; entry `k - 1` is cpu[k]: 1 tpc, 2 TMA, 3 TSV, 8 COSTAT. cpu[0], the processor
  status word, is a view of other fields (10_state.md R40 to R42). -/
  cpu : Vector Word 15
  /-- co[0] to co[15]: the word last written to each (10_state.md R44). -/
  co : Vector Word 16
  /-- The reservation of LOADL and STOREC: a word address (10_state.md R47). -/
  resv : Option Word
  mem : Memory
  /-- The configuration (00_scope.md R6); no step changes it (log entry 2). -/
  config : Config
  /-- The model's own: how many free values have been drawn. -/
  draws : Nat
  /-- The model's own: the (word address, word) pairs stored to device regions, newest first. -/
  deviceOut : List (Word × Word)
  deriving DecidableEq, Repr

/-- The faults of 60_exceptions.md R300. A fault ends the run (safe: the source describes no handler) unless
the configuration gives it a handler address. -/
inductive Fault where
  /-- `F_ILLEGAL(I)`: raised by the four unassigned encodings (R301). Safe: the source assigns them nothing. -/
  | illegal (I : Half)
  /-- `F_BUS(addr)`: raised by a fetch, load or store that `MEMMAP` does not admit (R302). Safe. -/
  | bus (addr : Word)
  /-- `F_PC_ODD(target)`: raised when an odd value is written to pc (R303). Safe: a fault errs toward
  unprovable. -/
  | pcOdd (target : Word)
  /-- `F_PRIV(I)`: raised by COGET, COSET, CPUGET, CPUSET and RTT at a level `PRIV` forbids (R304). Safe. -/
  | priv (I : Half)
  /-- `F_COPROC(src)`: raised by COGET and COSET with no coprocessor behind the index (R306). Safe. -/
  | coproc (src : Nibble)
  deriving DecidableEq, Repr

/-- The refusals of 60_exceptions.md R307: the spec gives the encoding no behaviour. -/
inductive Refusal where
  /-- An instruction whose meaning is not written yet. Raised by no arm of this model. Safe. -/
  | notModelled (mnemonic : String)
  /-- A field whose note is (nz) is zero (30_encoding.md R96, R115). Raised by the decoder, and by a meaning
  given such a term. Safe: the source says "must not be zero" and no more. -/
  | reservedOperand (mnemonic : String) (field : Field)
  /-- CPUGET or CPUSET of an entry the configuration does not define (10_state.md R42). Safe. -/
  | cpuUnmapped (src : Nibble)
  /-- ADJUST by an entry the configuration's `adj` does not define (48_special.md R245, 60_exceptions.md R307).
  Safe. -/
  | adjUnmapped (src : Nibble)
  /-- CPUGET with `dst` = 0 and `src` not 1 (48_special.md R249). Safe. -/
  | cpugetPc (src : Nibble)
  deriving DecidableEq, Repr

/-- The outcome of a step. -/
abbrev Result := Host.Outcome State Fault Refusal

/-- The state right after reset (10_state.md R50, 70_reset_and_hazards.md R341). The spec fixes `resv` = none
and that `level` is the most privileged; the other values are the model's: log entries 3 to 6 and 27. -/
def State.reset : State :=
  { regs := Vector.replicate 15 0
    pc := 0
    cc := { n := false, z := false, v := false, c := false }
    level := 0
    prior := 0
    bcd := 0
    cpu := Vector.replicate 15 0
    co := Vector.replicate 16 0
    resv := none
    mem := []
    config := Config.base
    draws := 0
    deviceOut := [] }

end Sys2Proof.Machine
end

