-- ==== Sys2Proof/Machine/Flags.lean ====
section
/-! DEFINITION. Every flag computation of the spec: 00_scope.md R12, 10_state.md R34 and R35. -/

namespace Sys2Proof.Machine

/-- `addc32(a, b, cin)`: the sum and its four condition codes (00_scope.md R12). -/
def addc32 (a b : Word) (cin : Bool) : Word × Flags :=
  let sum := a.toNat + b.toNat + cin.toNat
  let r := BitVec.ofNat 32 sum
  (r, { n := r.msb, z := r == 0#32, v := a.msb == b.msb && r.msb != a.msb, c := decide (2 ^ 32 ≤ sum) })

/-- `setNZ(r)` with V and C from an open function (00_scope.md R12, 10_state.md R35). -/
def flagsNZ (r : Word) (vc : VC) : Flags :=
  { n := r.msb, z := r == 0#32, v := vc.v, c := vc.c }

/-- `NZ00`: N and Z from the result, V and C cleared (10_state.md R34). MOVECC too, by 90_conflicts.md C3. -/
def flagsNZ00 (r : Word) : Flags :=
  flagsNZ r { v := false, c := false }

/-- `0ZVC`: N cleared (10_state.md R34). -/
def flags0Z (r : Word) (vc : VC) : Flags :=
  { n := false, z := r == 0#32, v := vc.v, c := vc.c }

/-- EXTB and EXTH: as `NZ00`, but N is the top bit of the field where `EXT_N` says so
(44_byte_halfword.md R202, R203). -/
def flagsExt (e : ExtN) (r : Word) (top : Nat) : Flags :=
  { n := match e with
      | .bit31 => r.msb
      | .msbOfField => r.getLsbD top
    z := r == 0#32, v := false, c := false }

/-- ADDSR and ADDSRU: C is the last bit shifted out of the wrapped sum, V is open (43_shift.md R182, R183). -/
def flagsShr (r sum : Word) (s : Nat) (sense : ShiftSense) : Flags :=
  flagsNZ r { v := Config.ccShrV sum s sense, c := sum.getLsbD (s - 1) }

/-- `00V0`: V reports the outcome of STOREC (40_short_memory_reference.md R137). -/
def flagsStorec (vFail ok : Bool) : Flags :=
  { n := false, z := false, v := if ok then !vFail else vFail, c := false }

end Sys2Proof.Machine
end

