-- ==== Sys2Proof/Machine/Ops.lean ====
section
/-! DEFINITION. The named operations over registers, memory and the special registers; raising a fault, taking
a trap, returning from one; the shapes of result that the meanings share. -/

namespace Sys2Proof.Machine

/-! ## Register files of entries 1 to 15 -/

/-- Entry `k` of a file that holds entries 1 to 15; there is no entry 0. -/
def entryGet (f : Vector Word 15) (k : Nibble) : Word :=
  if k = 0#4 then 0#32 else f[k.toNat - 1]?.getD 0#32

/-- Write entry `k` of a file that holds entries 1 to 15; there is no entry 0. -/
def entrySet (f : Vector Word 15) (k : Nibble) (v : Word) : Vector Word 15 :=
  if k = 0#4 then f else f.setIfInBounds (k.toNat - 1) v

/-- x[n], n not 0 (00_scope.md R10). What a field of 0 means is in Operands.lean. -/
def State.reg (s : State) (n : Nibble) : Word := entryGet s.regs n

/-- `if dst != 0: x[dst] <- v`: a zero field discards the value (30_encoding.md R97). -/
def State.setReg (s : State) (n : Nibble) (v : Word) : State :=
  { s with regs := entrySet s.regs n v }

def State.setPc (s : State) (v : Word) : State := { s with pc := v }

def State.setCc (s : State) (f : Flags) : State := { s with cc := f }

def State.setResv (s : State) (r : Option Word) : State := { s with resv := r }

/-- One free value has been drawn. -/
def State.draw (s : State) : State := { s with draws := s.draws + 1 }

/-! ## Special registers -/

/-- cpu[k] for k not 0, as stored (10_state.md R40). -/
def State.cpuReg (s : State) (k : Nibble) : Word := entryGet s.cpu k

def State.setCpuReg (s : State) (k : Nibble) (v : Word) : State :=
  { s with cpu := entrySet s.cpu k v }

/-- tpc is cpu[1] (10_state.md R41). -/
def State.tpc (s : State) : Word := s.cpuReg 1#4

/-- co[k]: the word last written to it (10_state.md R44). -/
def State.coReg (s : State) (k : Nibble) : Word := s.co[k.toNat]?.getD 0#32

def State.setCoReg (s : State) (k : Nibble) (v : Word) : State :=
  { s with co := s.co.setIfInBounds k.toNat v }

/-- N Z V C as bits 3 to 0 of the processor status word (10_state.md R42). -/
def flagBits (f : Flags) : BitVec 4 :=
  BitVec.ofBool f.n ++ BitVec.ofBool f.z ++ BitVec.ofBool f.v ++ BitVec.ofBool f.c

/-- The processor status word, its unimplemented bits 0: level 31:28, prior 27:24, BCD carries 15:8,
N Z V C 3:0 (10_state.md R42). -/
def State.pswWord (s : State) : Word :=
  s.level ++ s.prior ++ 0#8 ++ s.bcd ++ 0#4 ++ flagBits s.cc

/-- The bits of the processor status word that its layout does not implement (10_state.md R42, R43). -/
def pswUnimplemented : Word := 0x00FF00F0#32

/-- Write the processor status word: its fields change, its unimplemented bits hold nothing (R42, R43). -/
def State.setPsw (s : State) (v : Word) : State :=
  { s with
    level := v.extractLsb' 28 4
    prior := v.extractLsb' 24 4
    bcd := v.extractLsb' 8 8
    cc := { n := v[3], z := v[2], v := v[1], c := v[0] } }

/-- Whether the configuration defines cpu[k]; cpu[1] is tpc in every configuration (10_state.md R41, R42). -/
def cpuDefined (cfg : Config) (k : Nibble) : Bool :=
  k == 1#4 || cfg.cpuMap.getLsbD k.toNat

/-- `cpu_read(k)`: a stored entry unchanged; the processor status word with free values in its unimplemented
bits (10_state.md R43; log entry 8). -/
def State.cpuRead (s : State) (k : Nibble) : Word :=
  if k = 0#4 then s.pswWord ||| (Config.pswFree s.draws &&& pswUnimplemented) else s.cpuReg k

/-- The state after `cpu_read(k)`: reading the processor status word draws a free value. -/
def State.afterCpuRead (s : State) (k : Nibble) : State :=
  if k = 0#4 then s.draw else s

/-- `cpu_write(k, v)` (48_special.md R250). -/
def State.cpuWrite (s : State) (k : Nibble) (v : Word) : State :=
  if k = 0#4 then s.setPsw v else s.setCpuReg k v

/-- Whether `PRIV` forbids an instruction at the current level (60_exceptions.md R320). -/
def State.privDenied (s : State) (forbidden : Half) : Bool :=
  forbidden.getLsbD s.level.toNat

/-- Whether a coprocessor stands behind co[k] (48_special.md R247). -/
def State.coPresent (s : State) (k : Nibble) : Bool :=
  s.config.coMap.getLsbD k.toNat

/-! ## Memory -/

/-- What an address that memory does not list reads as. DESIGN CHOICE, unsafe: log entry 4. -/
def unlistedByte : Byte := 0#8

/-- The byte at an address. -/
def Memory.read : Memory → Nat → Byte
  | [], _ => unlistedByte
  | (k, b) :: rest, a => if k = a then b else if a < k then unlistedByte else Memory.read rest a

/-- Write one byte, keeping the form: an entry equal to what an unlisted address reads as is not listed. -/
def Memory.write : Memory → Nat → Byte → Memory
  | [], a, v => if v = unlistedByte then [] else [(a, v)]
  | (k, b) :: rest, a, v =>
    if k = a then (if v = unlistedByte then rest else (a, v) :: rest)
    else if a < k then (if v = unlistedByte then (k, b) :: rest else (a, v) :: (k, b) :: rest)
    else (k, b) :: Memory.write rest a v

/-- The form holds for addresses from `lo` on. -/
def Memory.wfFrom (lo : Nat) : Memory → Bool
  | [] => true
  | (k, b) :: rest =>
    decide (lo ≤ k) && decide (k < 2 ^ 32) && b != unlistedByte && Memory.wfFrom (k + 1) rest

/-- The canonical form: addresses strictly rising and below 2^32, no entry equal to what an unlisted address
reads as. -/
def Memory.wf (m : Memory) : Bool := Memory.wfFrom 0 m

/-- `byte[a]` (20_memory.md R61). -/
def State.byteAt (s : State) (a : Word) : Byte := Memory.read s.mem a.toNat

def State.setByte (s : State) (a : Word) (v : Byte) : State :=
  { s with mem := Memory.write s.mem a.toNat v }

/-- `addr & 0xFFFFFFFC` (20_memory.md R61). -/
def wordAlign (a : Word) : Word := a &&& 0xFFFFFFFC#32

/-- The word at a word address, little-endian (20_memory.md R61). -/
def State.ramWord (s : State) (A : Word) : Word :=
  s.byteAt (A + 3#32) ++ s.byteAt (A + 2#32) ++ s.byteAt (A + 1#32) ++ s.byteAt A

/-- Write the word at a word address, little-endian (20_memory.md R61). -/
def State.setRamWord (s : State) (A : Word) (v : Word) : State :=
  (((s.setByte A (v.extractLsb' 0 8)).setByte (A + 1#32) (v.extractLsb' 8 8)).setByte
    (A + 2#32) (v.extractLsb' 16 8)).setByte (A + 3#32) (v.extractLsb' 24 8)

/-- `FetchHalf(a)`: the halfword at an even address, little-endian (20_memory.md R61). -/
def State.halfAt (s : State) (a : Word) : Half := s.byteAt (a + 1#32) ++ s.byteAt a

/-! ## `MEMMAP` -/

/-- The region of a list that holds a word address, if any. -/
def regionOf : List Region → Nat → Option Region
  | [], _ => none
  | r :: rest, a => if r.base ≤ a ∧ a < r.base + r.size then some r else regionOf rest a

/-- The region that holds the word an address lies in (20_memory.md R68, 60_exceptions.md R302). -/
def State.region (s : State) (a : Word) : Option Region :=
  regionOf s.config.memMap (wordAlign a).toNat

/-- `MEMMAP.readable`: not where nothing is mapped (60_exceptions.md R302). -/
def State.readable (s : State) (a : Word) : Bool :=
  match s.region a with
  | some r => r.readable && r.kind != .none
  | none => false

/-- `MEMMAP.writable`: never in ROM (20_memory.md R67). -/
def State.writable (s : State) (a : Word) : Bool :=
  match s.region a with
  | some r => r.writable && (r.kind == .ram || r.kind == .device)
  | none => false

/-- `MEMMAP.executable`: RAM or ROM only; a device is not fetched from (log entry 14). -/
def State.executable (s : State) (a : Word) : Bool :=
  match s.region a with
  | some r => r.executable && (r.kind == .ram || r.kind == .rom)
  | none => false

/-- Whether an address lies in a device region (20_memory.md R67). -/
def State.isDevice (s : State) (a : Word) : Bool :=
  match s.region a with
  | some r => r.kind == .device
  | none => false

/-! ## Word accesses -/

/-- `MemRead(ea, 4)`: the aligned word that holds ea, its low two bits ignored (20_memory.md R61, R63); a
device answers as its oracle does (R67). -/
def State.readWord (s : State) (ea : Word) : Word :=
  if s.isDevice ea then Config.deviceRead s.draws (wordAlign ea) s.deviceOut else s.ramWord (wordAlign ea)

/-- The state after `MemRead(ea, 4)`: a device's answer is a draw; RAM and ROM are not changed (R67). -/
def State.afterRead (s : State) (ea : Word) : State :=
  if s.isDevice ea then s.draw else s

/-- `MemWrite(ea, 4, v)`: the aligned word that holds ea (20_memory.md R61, R63); a device receives the word
and memory does not change (R67). -/
def State.writeWord (s : State) (ea : Word) (v : Word) : State :=
  if s.isDevice ea then { s with deviceOut := (wordAlign ea, v) :: s.deviceOut }
  else s.setRamWord (wordAlign ea) v

/-! ## Faults and traps -/

/-- The handler address that `TRAP_ENTRY` gives a fault, if any (60_exceptions.md R305). -/
def trapVector (t : TrapVectors) : Fault → Option Word
  | .illegal _ => t.illegal
  | .bus _ => t.bus
  | .pcOdd _ => t.pcOdd
  | .priv _ => t.priv
  | .coproc _ => t.coproc

/-- Taking a trap (60_exceptions.md R305): tpc gets the address of the faulting instruction, TMA (cpu[2]) the
address of a bus trap, prior the level, the level becomes the most privileged, pc the handler's address; the
reservation is lost (20_memory.md R75). Nothing else is saved or changed. -/
def takeTrap (s : State) (f : Fault) (handler : Word) : State :=
  let saved := s.setCpuReg 1#4 s.pc
  let recorded := match f with
    | .bus addr => saved.setCpuReg 2#4 addr
    | _ => saved
  { recorded with prior := s.level, level := 0#4, resv := none, pc := handler }

/-- Raise a fault in the state before the instruction's writes, whose pc is the address of the instruction
(R300); only the count of draws may have advanced. It is terminal unless the configuration gives it a handler; a
handler at an odd address cannot be written to pc (10_state.md R28). -/
def raise (s : State) (f : Fault) : Result :=
  match trapVector s.config.traps f with
  | none => .fault f
  | some handler => if handler[0] then .fault (.pcOdd handler) else .next (takeTrap s f handler)

/-- Write a target to pc in `s'`; an odd one raises `F_PC_ODD` in `s`, the state before the instruction's writes
(10_state.md R28). -/
def jump (s s' : State) (target : Word) : Result :=
  if target[0] then raise s (.pcOdd target) else .next (s'.setPc target)

/-- Return from trap: pc from tpc and level from prior, nothing else (48_special.md R251, 60_exceptions.md
R312). -/
def returnFromTrap (s : State) : Result :=
  jump s { s with level := s.prior } s.tpc

/-! ## Shapes of a meaning -/

/-- Refuse a zero in a field whose note is (nz) (30_encoding.md R96). -/
def requireNz (mnemonic : String) (field : Field) (n : Nibble) (k : Result) : Result :=
  if n = 0#4 then .refused (.reservedOperand mnemonic field) else k

/-- Write a register (or discard the value) and go on `len` bytes further (10_state.md R27). -/
def finishReg (s : State) (len : Word) (dst : Nibble) (v : Word) : Result :=
  .next ((s.setReg dst v).setPc (s.pc + len))

/-- Write a register (or discard the value) and the four condition codes, and go on (30_encoding.md R97). -/
def finishRegCc (s : State) (len : Word) (dst : Nibble) (v : Word) (cc : Flags) : Result :=
  .next (((s.setReg dst v).setCc cc).setPc (s.pc + len))

/-- Write a register, or pc where the field is 0 and its note is (pc) (30_encoding.md R99). `s` is the state
that the instruction's reads left: no register has been written. -/
def finishRegOrPc (s : State) (len : Word) (dst : Nibble) (v : Word) : Result :=
  if dst = 0#4 then jump s s v else finishReg s len dst v

/-- Load the word at ea and go on with it and the state the read left, or raise `F_BUS`. -/
def loadThen (s : State) (ea : Word) (k : Word → State → Result) : Result :=
  if s.readable ea then k (s.readWord ea) (s.afterRead ea) else raise s (.bus (wordAlign ea))

/-- Store a word at ea and go on `len` bytes further, or raise `F_BUS`. -/
def storeThen (s : State) (len ea v : Word) : Result :=
  if s.writable ea then .next ((s.writeWord ea v).setPc (s.pc + len)) else raise s (.bus (wordAlign ea))

/-- Save the return address (or nothing) and jump; the target was read before (10_state.md R26, R13). -/
def linkAndJump (s : State) (len : Word) (dst : Nibble) (target : Word) : Result :=
  jump s (s.setReg dst (s.pc + len)) target

end Sys2Proof.Machine
end

