-- ==== Sys2Proof/Machine/Operands.lean ====
section
/-! DEFINITION. Every operand form: the operand-zero conventions (30_encoding.md R96 to R109), effective
addresses, small constants, bit fields. -/

namespace Sys2Proof.Machine

/-! ## Registers by note -/

/-- A source field whose note is (0): 0 where it is zero (30_encoding.md R100). Also `r[dst]` read under (x)
(R109). -/
def regOrZero (s : State) (n : Nibble) : Word := if n = 0#4 then 0#32 else s.reg n

/-- A source field whose note is (pc): the pc the instruction sees where it is zero (30_encoding.md R98,
10_state.md R26). `len` is the instruction's length. -/
def regOrPc (s : State) (n : Nibble) (len : Word) : Word := if n = 0#4 then s.pc + len else s.reg n

/-! ## Effective addresses -/

/-- Short Memory Reference Format (40_short_memory_reference.md R130). -/
def eaShort (s : State) (x : Nibble) : Word := regOrPc s x 2#32

/-- The base register of the Memory Reference Format (41_memory_reference.md R150). -/
def baseLong (s : State) (x : Nibble) : Word := regOrPc s x 4#32

/-- Memory Reference Format: base plus the signed 16-bit byte displacement (41_memory_reference.md R150). -/
def eaLong (s : State) (x : Nibble) (disp : Half) : Word := baseLong s x + disp.signExtend 32

/-- Branch Format: the next instruction's address plus a signed count of halfwords (49_branch.md R265). -/
def branchTarget (s : State) (disp : Byte) : Word := s.pc + 2#32 + (disp.signExtend 32 <<< 1)

/-! ## Small constants -/

/-- Shift count, note (16) (30_encoding.md R105). -/
def shiftCount (f : Nibble) : Nat := if f = 0#4 then 16 else f.toNat

/-- Bit count of TRUNC, SXT, BTRUNC, note (16) (30_encoding.md R106). -/
def bitCount (f : Nibble) : Nat := if f = 0#4 then 16 else f.toNat

/-- ADDSI's constant, note (8): 8, or the signed nibble (30_encoding.md R107). -/
def shortConst (f : Nibble) : Word := if f = 0#4 then 8#32 else f.signExtend 32

/-- Byte position `b` of a pointer (30_encoding.md R108). -/
def bytePos (p : Word) : Nat := 8 * (p.extractLsb' 0 2).toNat

/-- Halfword position `h` of a pointer (30_encoding.md R108). -/
def halfPos (p : Word) : Nat := 16 * (p.extractLsb' 1 1).toNat

/-! ## Bit fields -/

/-- `v[p + w - 1 : p]`, zero-extended. -/
def fieldAt (v : Word) (p w : Nat) : Word := (v.extractLsb' p w).setWidth 32

/-- `t[p + w - 1 : p] <- v[w - 1 : 0]`, the other bits of `t` unchanged. -/
def stuffAt (t v : Word) (p w : Nat) : Word :=
  let mask : Word := (BitVec.allOnes w).setWidth 32 <<< p
  (t &&& ~~~mask) ||| ((v.setWidth w).setWidth 32 <<< p)

/-- `zext_b(v[b - 1 : 0])`. -/
def zextLow (v : Word) (b : Nat) : Word := BitVec.ofNat 32 (v.toNat % 2 ^ b)

/-- `sext_b(v[b - 1 : 0])`. -/
def sextLow (v : Word) (b : Nat) : Word := BitVec.ofInt 32 (Int.bmod v.toNat (2 ^ b))

/-! ## Right shifts of a sum -/

/-- `(d + a) » s`, signed (43_shift.md R182). -/
def shiftSumSigned (w : SumWidth) (d a : Word) (s : Nat) : Word :=
  match w with
  | .wide => BitVec.ofInt 32 ((d.toInt + a.toInt) / 2 ^ s)
  | .narrow => BitVec.ofInt 32 ((d + a).toInt / 2 ^ s)

/-- `(d + a) ›» s`, unsigned (43_shift.md R183). -/
def shiftSumUnsigned (w : SumWidth) (d a : Word) (s : Nat) : Word :=
  match w with
  | .wide => BitVec.ofNat 32 ((d.toNat + a.toNat) / 2 ^ s)
  | .narrow => BitVec.ofNat 32 ((d + a).toNat / 2 ^ s)

/-! ## The table `adj` -/

/-- Whether the configuration's `adj` defines an entry; it always does for 8 to 15 (00_scope.md R6, 48_special.md
R245; log entry 11). -/
def adjDefined (cfg : Config) (src : Nibble) : Bool :=
  decide (8#4 ≤ src) || cfg.adjMap.getLsbD src.toNat

/-- `adj(src, status)`: entries 8 to 15 are 2^0 to 2^7, the others are open (48_special.md R245; log entry
11). -/
def adjEntry (src : Nibble) (status : Word) : Word :=
  if 8#4 ≤ src then 1#32 <<< (src.toNat - 8) else Config.adjOpen src status

end Sys2Proof.Machine
end

