-- ==== Sys2Proof/Machine/ByteHalf.lean ====
section
/-! DEFINITION. Byte and Halfword Format: 44_byte_halfword.md. -/

namespace Sys2Proof.Machine

/-- R200. -/
def execStuffb (dst s1 s2 : Nibble) (s : State) : Result :=
  requireNz "STUFFB" .dst dst
    (finishReg s 2#32 dst (stuffAt (s.reg dst) (regOrZero s s1) (bytePos (regOrZero s s2)) 8))

/-- R201. -/
def execStuffh (dst s1 s2 : Nibble) (s : State) : Result :=
  requireNz "STUFFH" .dst dst
    (finishReg s 2#32 dst (stuffAt (s.reg dst) (regOrZero s s1) (halfPos (regOrZero s s2)) 16))

/-- R202: zero-extended. -/
def execExtb (dst s1 s2 : Nibble) (s : State) : Result :=
  requireNz "EXTB" .s1 s1
    (let r := fieldAt (s.reg s1) (bytePos (regOrZero s s2)) 8
     finishRegCc s 2#32 dst r (flagsExt s.config.extN r 7))

/-- R203: zero-extended; the printed `b` is read as `h` (90_conflicts.md C6). -/
def execExth (dst s1 s2 : Nibble) (s : State) : Result :=
  requireNz "EXTH" .s1 s1
    (let r := fieldAt (s.reg s1) (halfPos (regOrZero s s2)) 16
     finishRegCc s 2#32 dst r (flagsExt s.config.extN r 15))

end Sys2Proof.Machine
end

