-- ==== Sys2Proof/Machine/AddSub.lean ====
section
/-! DEFINITION. Add and Subtract Format: 45_add_subtract.md. -/

namespace Sys2Proof.Machine

/-- R210. -/
def execAdd (dst s1 s2 : Nibble) (s : State) : Result :=
  requireNz "ADD" .s1 s1 (requireNz "ADD" .s2 s2
    (let (r, cc) := addc32 (s.reg s1) (s.reg s2) false
     finishRegCc s 2#32 dst r cc))

/-- R211. -/
def execSub (dst s1 s2 : Nibble) (s : State) : Result :=
  requireNz "SUB" .s2 s2
    (let (r, cc) := addc32 (regOrZero s s1) (~~~ s.reg s2) true
     finishRegCc s 2#32 dst r cc)

end Sys2Proof.Machine
end

