-- ==== Sys2Proof/Machine/Branch.lean ====
section
/-! DEFINITION. Branch Format: 49_branch.md. -/

namespace Sys2Proof.Machine

/-- A branch: pc is the target where the condition holds, else the next instruction's address (R265). -/
def branchIf (taken : Bool) (disp : Byte) (s : State) : Result :=
  .next (s.setPc (if taken then branchTarget s disp else s.pc + 2#32))

/-- The condition of BLT: `N ≡ V` as printed, `N ⊕ V` where `SIGNED_COND` is conventional (R268). -/
def signedLess (c : SignedCond) (f : Flags) : Bool :=
  match c with
  | .printed => f.n == f.v
  | .conventional => f.n != f.v

/-- R266. -/
def execBr (disp : Byte) (s : State) : Result := branchIf true disp s

/-- R270. -/
def execBns (disp : Byte) (s : State) : Result := branchIf s.cc.n disp s

/-- R271. -/
def execBzs (disp : Byte) (s : State) : Result := branchIf s.cc.z disp s

/-- R272. -/
def execBvs (disp : Byte) (s : State) : Result := branchIf s.cc.v disp s

/-- R273. -/
def execBcs (disp : Byte) (s : State) : Result := branchIf s.cc.c disp s

/-- R274. -/
def execBlt (disp : Byte) (s : State) : Result := branchIf (signedLess s.config.signedCond s.cc) disp s

/-- R275. -/
def execBle (disp : Byte) (s : State) : Result := branchIf (signedLess s.config.signedCond s.cc || s.cc.z) disp s

/-- R276. -/
def execBleu (disp : Byte) (s : State) : Result := branchIf (!s.cc.c || s.cc.z) disp s

/-- R277. -/
def execBnr (disp : Byte) (s : State) : Result := branchIf (!s.cc.n) disp s

/-- R278. -/
def execBzr (disp : Byte) (s : State) : Result := branchIf (!s.cc.z) disp s

/-- R279. -/
def execBvr (disp : Byte) (s : State) : Result := branchIf (!s.cc.v) disp s

/-- R280. -/
def execBcr (disp : Byte) (s : State) : Result := branchIf (!s.cc.c) disp s

/-- R281. -/
def execBge (disp : Byte) (s : State) : Result := branchIf (!signedLess s.config.signedCond s.cc) disp s

/-- R282. -/
def execBgt (disp : Byte) (s : State) : Result := branchIf (!signedLess s.config.signedCond s.cc && !s.cc.z) disp s

/-- R283. -/
def execBgtu (disp : Byte) (s : State) : Result := branchIf (s.cc.c && !s.cc.z) disp s

end Sys2Proof.Machine
end

