-- ==== Sys2Proof/Machine/Immediate.lean ====
section
/-! DEFINITION. Long and Short Immediate Formats: 42_immediate.md. -/

namespace Sys2Proof.Machine

/-- R170: `dst` = 0 jumps to the constant. -/
def execLil (dst : Nibble) (const : BitVec 24) (s : State) : Result :=
  finishRegOrPc s 4#32 dst (const.signExtend 32)

/-- R171. -/
def execLis (dst : Nibble) (const : Byte) (s : State) : Result :=
  requireNz "LIS" .dst dst (finishReg s 2#32 dst (const.signExtend 32))

/-- R172. -/
def execOris (dst : Nibble) (const : Byte) (s : State) : Result :=
  requireNz "ORIS" .dst dst (finishReg s 2#32 dst (s.reg dst <<< 8 ||| const.setWidth 32))

end Sys2Proof.Machine
end

