-- ==== Sys2Proof/Machine/LongMemory.lean ====
section
/-! DEFINITION. Memory Reference Format: 41_memory_reference.md. -/

namespace Sys2Proof.Machine

/-- R151. -/
def execLea (dst x : Nibble) (disp : Half) (s : State) : Result :=
  requireNz "LEA" .dst dst (finishReg s 4#32 dst (eaLong s x disp))

/-- R152: the flags are those of the addition. -/
def execLeacc (dst x : Nibble) (disp : Half) (s : State) : Result :=
  let (r, cc) := addc32 (baseLong s x) (disp.signExtend 32) false
  finishRegCc s 4#32 dst r cc

/-- R153: `dst` = 0 loads pc. -/
def execLoad (dst x : Nibble) (disp : Half) (s : State) : Result :=
  loadThen s (eaLong s x disp) fun v s' => finishRegOrPc s' 4#32 dst v

/-- R154. -/
def execLoadcc (dst x : Nibble) (disp : Half) (s : State) : Result :=
  loadThen s (eaLong s x disp) fun v s' => finishRegCc s' 4#32 dst v (flagsNZ v (Config.ccLoadVC v))

/-- R155. -/
def execJsr (dst x : Nibble) (disp : Half) (s : State) : Result :=
  linkAndJump s 4#32 dst (eaLong s x disp)

/-- R156. -/
def execStore (srcx x : Nibble) (disp : Half) (s : State) : Result :=
  storeThen s 4#32 (eaLong s x disp) (regOrZero s srcx)

end Sys2Proof.Machine
end

