-- ==== Sys2Proof/Machine/Shift.lean ====
section
/-! DEFINITION. Shift Format: 43_shift.md. -/

namespace Sys2Proof.Machine

/-- R181. -/
def execMovesl (dst s1 cnt : Nibble) (s : State) : Result :=
  requireNz "MOVESL" .s1 s1
    (let v := s.reg s1
     let r := v <<< shiftCount cnt
     finishRegCc s 2#32 dst r (flagsNZ r (Config.ccShlVC v (shiftCount cnt) 0#32)))

/-- R184: shift first, then add. -/
def execAddsl (dst s1 cnt : Nibble) (s : State) : Result :=
  requireNz "ADDSL" .dst dst
    (let v := s.reg dst
     let a := regOrZero s s1
     let r := v <<< shiftCount cnt + a
     finishRegCc s 2#32 dst r (flagsNZ r (Config.ccShlVC v (shiftCount cnt) a)))

/-- R182: add first, then a signed shift. -/
def execAddsr (dst s1 cnt : Nibble) (s : State) : Result :=
  let d := regOrZero s dst
  let a := regOrZero s s1
  let r := shiftSumSigned s.config.addsrSum d a (shiftCount cnt)
  finishRegCc s 2#32 dst r (flagsShr r (d + a) (shiftCount cnt) .signed)

/-- R183: add first, then an unsigned shift. -/
def execAddsru (dst s1 cnt : Nibble) (s : State) : Result :=
  let d := regOrZero s dst
  let a := regOrZero s s1
  let r := shiftSumUnsigned s.config.addsrSum d a (shiftCount cnt)
  finishRegCc s 2#32 dst r (flagsShr r (d + a) (shiftCount cnt) .unsigned)

end Sys2Proof.Machine
end

