-- ==== Sys2Proof/Machine/ShortMemory.lean ====
section
/-! DEFINITION. Short Memory Reference Format: 40_short_memory_reference.md. -/

namespace Sys2Proof.Machine

/-- R131. -/
def execMove (dst x : Nibble) (s : State) : Result :=
  requireNz "MOVE" .dst dst (finishReg s 2#32 dst (eaShort s x))

/-- R132. -/
def execMovecc (dst x : Nibble) (s : State) : Result :=
  finishRegCc s 2#32 dst (eaShort s x) (flagsNZ00 (eaShort s x))

/-- R133: `dst` = 0 loads pc. -/
def execLoads (dst x : Nibble) (s : State) : Result :=
  loadThen s (eaShort s x) fun v s' => finishRegOrPc s' 2#32 dst v

/-- R134. -/
def execLoadscc (dst x : Nibble) (s : State) : Result :=
  loadThen s (eaShort s x) fun v s' => finishRegCc s' 2#32 dst v (flagsNZ v (Config.ccLoadVC v))

/-- R135. -/
def execJsrs (dst x : Nibble) (s : State) : Result :=
  linkAndJump s 2#32 dst (eaShort s x)

/-- R138. -/
def execStores (srcx x : Nibble) (s : State) : Result :=
  requireNz "STORES" .x x (storeThen s 2#32 (s.reg x) (regOrZero s srcx))

/-- R136: sets the reservation (20_memory.md R73). -/
def execLoadl (dst x : Nibble) (s : State) : Result :=
  requireNz "LOADL" .x x
    (loadThen s (s.reg x) fun v s' =>
      finishRegCc (s'.setResv (some (wordAlign (s.reg x)))) 2#32 dst v (flagsNZ v (Config.ccLoadVC v)))

/-- Whether a STOREC at ea succeeds: the reservation is held for that word and the draw is favourable
(20_memory.md R74; log entry 12). -/
def storecOk (s : State) (ea : Word) : Bool :=
  s.resv == some (wordAlign ea) && Config.storecDraw s.draws

/-- R137: the reservation is always lost; V reports the outcome. -/
def execStorec (srcx x : Nibble) (s : State) : Result :=
  requireNz "STOREC" .x x
    (let ea := s.reg x
     let ok := storecOk s ea
     if ok && !s.writable ea then raise s.draw (.bus (wordAlign ea))
     else
       let stored := if ok then s.writeWord ea (regOrZero s srcx) else s
       .next (((stored.draw.setResv none).setCc (flagsStorec s.config.storecVFail ok)).setPc (s.pc + 2#32)))

end Sys2Proof.Machine
end

