-- ==== Sys2Proof/Machine/Special.lean ====
section
/-! DEFINITION. Special Format: 48_special.md. -/

namespace Sys2Proof.Machine

/-- R245: no condition code is written; an entry the configuration does not define is refused (60_exceptions.md
R307). -/
def execAdjust (dst src : Nibble) (s : State) : Result :=
  requireNz "ADJUST" .dst dst <|
    if adjDefined s.config src then finishReg s 2#32 dst (s.reg dst + adjEntry src s.pswWord)
    else .refused (.adjUnmapped src)

/-- R246: no condition code is written. -/
def execPlus (dst src : Nibble) (s : State) : Result :=
  requireNz "PLUS" .dst dst (finishReg s 2#32 dst (s.reg dst + regOrPc s src 2#32))

/-- R247: the value and the four condition codes are the coprocessor's (log entry 13). -/
def execCoget (dst src : Nibble) (s : State) : Result :=
  if s.privDenied s.config.priv.coget then raise s (.priv (halfOf 3#4 src 1#4 dst))
  else if !s.coPresent src then raise s (.coproc src)
  else
    let v := Config.coRead s.draws src s.co
    finishRegCc s.draw 2#32 dst v (Config.ccCoget src v)

/-- R248. -/
def execCoset (srcx src : Nibble) (s : State) : Result :=
  if s.privDenied s.config.priv.coset then raise s (.priv (halfOf 2#4 src 1#4 srcx))
  else if !s.coPresent src then raise s (.coproc src)
  else .next ((s.setCoReg src (regOrZero s srcx)).setPc (s.pc + 2#32))

/-- R249. With `dst` = 0 and `src` = 1 it is RTT (R251), which consults `PRIV` under its own name too (log
entry 15); with `dst` = 0 and another `src` it is refused (log entry 17). -/
def execCpuget (dst src : Nibble) (s : State) : Result :=
  let I := halfOf 1#4 src 1#4 dst
  if s.privDenied s.config.priv.cpuget then raise s (.priv I)
  else if dst = 0#4 then
    if src = 1#4 then
      if s.privDenied s.config.priv.rtt then raise s (.priv I) else returnFromTrap s
    else .refused (.cpugetPc src)
  else if cpuDefined s.config src then finishReg (s.afterCpuRead src) 2#32 dst (s.cpuRead src)
  else .refused (.cpuUnmapped src)

/-- R250. -/
def execCpuset (srcx src : Nibble) (s : State) : Result :=
  if s.privDenied s.config.priv.cpuset then raise s (.priv (halfOf 0#4 src 1#4 srcx))
  else if cpuDefined s.config src then .next ((s.cpuWrite src (regOrZero s srcx)).setPc (s.pc + 2#32))
  else .refused (.cpuUnmapped src)

end Sys2Proof.Machine
end

