-- ==== Sys2Proof/Machine/TwoRegister.lean ====
section
/-! DEFINITION. Two Register Format: 47_two_register.md. -/

namespace Sys2Proof.Machine

/-- R230. -/
def execAnd (dst src : Nibble) (s : State) : Result :=
  requireNz "AND" .dst dst (requireNz "AND" .src src
    (let r := s.reg dst &&& s.reg src
     finishRegCc s 2#32 dst r (flagsNZ00 r)))

/-- R231. -/
def execOr (dst src : Nibble) (s : State) : Result :=
  requireNz "OR" .dst dst (requireNz "OR" .src src
    (let r := s.reg dst ||| s.reg src
     finishRegCc s 2#32 dst r (flagsNZ00 r)))

/-- R232: bitwise equivalence. -/
def execEqu (dst src : Nibble) (s : State) : Result :=
  requireNz "EQU" .dst dst
    (let r := ~~~ (s.reg dst ^^^ regOrZero s src)
     finishRegCc s 2#32 dst r (flagsNZ00 r))

/-- R234; `r[dst]` reads as 0 where the field is 0 (30_encoding.md R109). -/
def execAddc (dst src : Nibble) (s : State) : Result :=
  let (r, cc) := addc32 (regOrZero s dst) (regOrZero s src) s.cc.c
  finishRegCc s 2#32 dst r cc

/-- R235. -/
def execSubb (dst src : Nibble) (s : State) : Result :=
  let (r, cc) := addc32 (regOrZero s dst) (~~~ regOrZero s src) s.cc.c
  finishRegCc s 2#32 dst r cc

end Sys2Proof.Machine
end

