-- ==== Sys2Proof/Machine/Derived.lean ====
section
/-! DEFINITION. Derived names, each its base instruction with fixed fields (30_encoding.md R118), and the
assembler-level names, each the sequence or the choice it stands for (R121). -/

namespace Sys2Proof.Machine

/-- 40_short_memory_reference.md R139. -/
def execTestr (x : Nibble) (s : State) : Result := execMovecc 0#4 x s

/-- 40_short_memory_reference.md R140. -/
def execTests (x : Nibble) (s : State) : Result := execLoadscc 0#4 x s

/-- 40_short_memory_reference.md R141. -/
def execJumps (x : Nibble) (s : State) : Result := execJsrs 0#4 x s

/-- 40_short_memory_reference.md R142: the tested bit 31 is left in N. -/
def execBittst31 (x : Nibble) (s : State) : Result := execMovecc 0#4 x s

/-- 41_memory_reference.md R158. -/
def execAddi (dst x : Nibble) (disp : Half) (s : State) : Result := execLeacc dst x disp s

/-- 41_memory_reference.md R159: the stored displacement is the negative of the operand. -/
def execCmpi (x : Nibble) (c : Half) (s : State) : Result := execLeacc 0#4 x (-c) s

/-- 41_memory_reference.md R160. -/
def execTest (x : Nibble) (disp : Half) (s : State) : Result := execLoadcc 0#4 x disp s

/-- 41_memory_reference.md R161. -/
def execJump (x : Nibble) (disp : Half) (s : State) : Result := execJsr 0#4 x disp s

/-- 42_immediate.md R173. -/
def execClr (dst : Nibble) (s : State) : Result := execLis dst 0#8 s

/-- 43_shift.md R185. -/
def execSl (dst cnt : Nibble) (s : State) : Result := execAddsl dst 0#4 cnt s

/-- 43_shift.md R186. -/
def execSr (dst cnt : Nibble) (s : State) : Result := execAddsr dst 0#4 cnt s

/-- 43_shift.md R187. -/
def execSru (dst cnt : Nibble) (s : State) : Result := execAddsru dst 0#4 cnt s

/-- 43_shift.md R188: the tested bit is left in C. -/
def execBittstLow (r cnt : Nibble) (s : State) : Result := execAddsr 0#4 r cnt s

/-- 43_shift.md R189: the tested bit is left in N. -/
def execBittstHigh (r cnt : Nibble) (s : State) : Result := execMovesl 0#4 r cnt s

/-- 45_add_subtract.md R212. -/
def execNeg (dst s2 : Nibble) (s : State) : Result := execSub dst 0#4 s2 s

/-- 45_add_subtract.md R213. -/
def execCmp (s1 s2 : Nibble) (s : State) : Result := execSub 0#4 s1 s2 s

/-- 47_two_register.md R236. -/
def execNot (dst : Nibble) (s : State) : Result := execEqu dst 0#4 s

/-- 47_two_register.md R237. -/
def execRol (dst : Nibble) (s : State) : Result := execAddc dst dst s

/-- 48_special.md R251. -/
def execRtt (s : State) : Result := execCpuget 0#4 1#4 s

/-- 49_branch.md R284. -/
def execBltu (disp : Byte) (s : State) : Result := execBcr disp s

/-- 49_branch.md R285. -/
def execBne (disp : Byte) (s : State) : Result := execBzr disp s

/-- 49_branch.md R286. -/
def execBgeu (disp : Byte) (s : State) : Result := execBcs disp s

/-- 49_branch.md R287. -/
def execBeq (disp : Byte) (s : State) : Result := execBzs disp s

/-- 49_branch.md R267. -/
def execNop (s : State) : Result := execBr 0#8 s

/-- One instruction and then another; a stop of the first is a stop of both. -/
def andThen (r : Result) (k : State → Result) : Result :=
  match r with
  | .next s => k s
  | .fault f => .fault f
  | .refused e => .refused e

/-- 42_immediate.md R174: LIL of the high 24 bits, then ORIS of the low 8, six bytes in all. -/
def execLiw (dst : Nibble) (const : Word) (s : State) : Result :=
  requireNz "LIW" .dst dst
    (andThen (execLil dst (const.extractLsb' 8 24) s) (execOris dst (const.extractLsb' 0 8)))

/-- 43_shift.md R191: BNS after a BITTST that leaves the bit in N, BCS after one that leaves it in C. -/
def execBbs (bit : BitVec 5) (disp : Byte) (s : State) : Result :=
  if 16#5 ≤ bit then execBns disp s else execBcs disp s

/-- 43_shift.md R191: BNR or BCR, likewise. -/
def execBbr (bit : BitVec 5) (disp : Byte) (s : State) : Result :=
  if 16#5 ≤ bit then execBnr disp s else execBcr disp s

end Sys2Proof.Machine
end

