-- ==== Sys2Proof/Machine/ShortConstant.lean ====
section
/-! DEFINITION. Short Constant Format: 46_short_constant.md. -/

namespace Sys2Proof.Machine

/-- R220. -/
def execTrunc (dst b : Nibble) (s : State) : Result :=
  requireNz "TRUNC" .dst dst
    (let old := s.reg dst
     let r := zextLow old (bitCount b)
     finishRegCc s 2#32 dst r (flags0Z r (Config.ccTruncVC old (bitCount b))))

/-- R221. -/
def execSxt (dst b : Nibble) (s : State) : Result :=
  requireNz "SXT" .dst dst
    (let old := s.reg dst
     let r := sextLow old (bitCount b)
     finishRegCc s 2#32 dst r (flagsNZ r (Config.ccSxtVC old (bitCount b))))

/-- R222: a computed branch; the register is not changed. -/
def execBtrunc (dst b : Nibble) (s : State) : Result :=
  requireNz "BTRUNC" .dst dst
    (.next (s.setPc (s.pc + 2#32 + (zextLow (s.reg dst) (bitCount b) <<< 1))))

/-- R223. -/
def execAddsi (dst c : Nibble) (s : State) : Result :=
  requireNz "ADDSI" .dst dst
    (let (r, cc) := addc32 (s.reg dst) (shortConst c) false
     finishRegCc s 2#32 dst r cc)

end Sys2Proof.Machine
end

