-- ==== Sys2Proof/Machine/Unassigned.lean ====
section
/-! DEFINITION. The four unassigned encodings: 30_encoding.md R114, 60_exceptions.md R301. -/

namespace Sys2Proof.Machine

/-- 41_memory_reference.md R157, sub-opcode 0001. -/
def execUnassignedMem1 (dst x : Nibble) (s : State) : Result :=
  raise s (.illegal (halfOf 1#4 x 15#4 dst))

/-- 41_memory_reference.md R157, sub-opcode 0000. -/
def execUnassignedMem0 (dst x : Nibble) (s : State) : Result :=
  raise s (.illegal (halfOf 0#4 x 15#4 dst))

/-- 47_two_register.md R233. -/
def execUnassignedTwoReg (dst src : Nibble) (s : State) : Result :=
  raise s (.illegal (halfOf 8#4 src 1#4 dst))

/-- 49_branch.md R269. -/
def execUnassignedBranch (disp : Byte) (s : State) : Result :=
  raise s (.illegal (halfOfByte disp 0#4 8#4))

end Sys2Proof.Machine
end

