-- ==== Sys2Proof/Machine/Dispatch.lean ====
section
/-! DEFINITION. The meaning of each instruction, one arm per constructor. -/

namespace Sys2Proof.Machine

def exec (i : Instr) (s : State) : Host.Outcome State Fault Refusal :=
  match i with
  | .move dst x => Sys2Proof.Machine.execMove dst x s
  | .movecc dst x => Sys2Proof.Machine.execMovecc dst x s
  | .loads dst x => Sys2Proof.Machine.execLoads dst x s
  | .loadscc dst x => Sys2Proof.Machine.execLoadscc dst x s
  | .jsrs dst x => Sys2Proof.Machine.execJsrs dst x s
  | .stores srcx x => Sys2Proof.Machine.execStores srcx x s
  | .loadl dst x => Sys2Proof.Machine.execLoadl dst x s
  | .storec srcx x => Sys2Proof.Machine.execStorec srcx x s
  | .lea dst x disp => Sys2Proof.Machine.execLea dst x disp s
  | .leacc dst x disp => Sys2Proof.Machine.execLeacc dst x disp s
  | .load dst x disp => Sys2Proof.Machine.execLoad dst x disp s
  | .loadcc dst x disp => Sys2Proof.Machine.execLoadcc dst x disp s
  | .jsr dst x disp => Sys2Proof.Machine.execJsr dst x disp s
  | .store srcx x disp => Sys2Proof.Machine.execStore srcx x disp s
  | .lil dst imm => Sys2Proof.Machine.execLil dst imm s
  | .lis dst imm => Sys2Proof.Machine.execLis dst imm s
  | .oris dst imm => Sys2Proof.Machine.execOris dst imm s
  | .movesl dst s1 cnt => Sys2Proof.Machine.execMovesl dst s1 cnt s
  | .addsl dst s1 cnt => Sys2Proof.Machine.execAddsl dst s1 cnt s
  | .addsr dst s1 cnt => Sys2Proof.Machine.execAddsr dst s1 cnt s
  | .addsru dst s1 cnt => Sys2Proof.Machine.execAddsru dst s1 cnt s
  | .stuffb dst s1 s2 => Sys2Proof.Machine.execStuffb dst s1 s2 s
  | .stuffh dst s1 s2 => Sys2Proof.Machine.execStuffh dst s1 s2 s
  | .extb dst s1 s2 => Sys2Proof.Machine.execExtb dst s1 s2 s
  | .exth dst s1 s2 => Sys2Proof.Machine.execExth dst s1 s2 s
  | .add dst s1 s2 => Sys2Proof.Machine.execAdd dst s1 s2 s
  | .sub dst s1 s2 => Sys2Proof.Machine.execSub dst s1 s2 s
  | .trunc dst b => Sys2Proof.Machine.execTrunc dst b s
  | .sxt dst b => Sys2Proof.Machine.execSxt dst b s
  | .btrunc dst b => Sys2Proof.Machine.execBtrunc dst b s
  | .addsi dst c => Sys2Proof.Machine.execAddsi dst c s
  | .and dst src => Sys2Proof.Machine.execAnd dst src s
  | .or dst src => Sys2Proof.Machine.execOr dst src s
  | .equ dst src => Sys2Proof.Machine.execEqu dst src s
  | .addc dst src => Sys2Proof.Machine.execAddc dst src s
  | .subb dst src => Sys2Proof.Machine.execSubb dst src s
  | .adjust dst src => Sys2Proof.Machine.execAdjust dst src s
  | .plus dst src => Sys2Proof.Machine.execPlus dst src s
  | .coget dst src => Sys2Proof.Machine.execCoget dst src s
  | .coset srcx src => Sys2Proof.Machine.execCoset srcx src s
  | .cpuget dst src => Sys2Proof.Machine.execCpuget dst src s
  | .cpuset srcx src => Sys2Proof.Machine.execCpuset srcx src s
  | .br disp => Sys2Proof.Machine.execBr disp s
  | .bns disp => Sys2Proof.Machine.execBns disp s
  | .bzs disp => Sys2Proof.Machine.execBzs disp s
  | .bvs disp => Sys2Proof.Machine.execBvs disp s
  | .bcs disp => Sys2Proof.Machine.execBcs disp s
  | .blt disp => Sys2Proof.Machine.execBlt disp s
  | .ble disp => Sys2Proof.Machine.execBle disp s
  | .bleu disp => Sys2Proof.Machine.execBleu disp s
  | .bnr disp => Sys2Proof.Machine.execBnr disp s
  | .bzr disp => Sys2Proof.Machine.execBzr disp s
  | .bvr disp => Sys2Proof.Machine.execBvr disp s
  | .bcr disp => Sys2Proof.Machine.execBcr disp s
  | .bge disp => Sys2Proof.Machine.execBge disp s
  | .bgt disp => Sys2Proof.Machine.execBgt disp s
  | .bgtu disp => Sys2Proof.Machine.execBgtu disp s
  | .unassignedMem1 dst x => Sys2Proof.Machine.execUnassignedMem1 dst x s
  | .unassignedMem0 dst x => Sys2Proof.Machine.execUnassignedMem0 dst x s
  | .unassignedTwoReg dst src => Sys2Proof.Machine.execUnassignedTwoReg dst src s
  | .unassignedBranch disp => Sys2Proof.Machine.execUnassignedBranch disp s
  | .testr x => Sys2Proof.Machine.execTestr x s
  | .tests x => Sys2Proof.Machine.execTests x s
  | .jumps x => Sys2Proof.Machine.execJumps x s
  | .bittst31 x => Sys2Proof.Machine.execBittst31 x s
  | .addi dst x disp => Sys2Proof.Machine.execAddi dst x disp s
  | .cmpi x c => Sys2Proof.Machine.execCmpi x c s
  | .test x disp => Sys2Proof.Machine.execTest x disp s
  | .jump x disp => Sys2Proof.Machine.execJump x disp s
  | .clr dst => Sys2Proof.Machine.execClr dst s
  | .sl dst cnt => Sys2Proof.Machine.execSl dst cnt s
  | .sr dst cnt => Sys2Proof.Machine.execSr dst cnt s
  | .sru dst cnt => Sys2Proof.Machine.execSru dst cnt s
  | .bittstLow r cnt => Sys2Proof.Machine.execBittstLow r cnt s
  | .bittstHigh r cnt => Sys2Proof.Machine.execBittstHigh r cnt s
  | .neg dst s2 => Sys2Proof.Machine.execNeg dst s2 s
  | .cmp s1 s2 => Sys2Proof.Machine.execCmp s1 s2 s
  | .not dst => Sys2Proof.Machine.execNot dst s
  | .rol dst => Sys2Proof.Machine.execRol dst s
  | .rtt => Sys2Proof.Machine.execRtt s
  | .bltu disp => Sys2Proof.Machine.execBltu disp s
  | .bne disp => Sys2Proof.Machine.execBne disp s
  | .bgeu disp => Sys2Proof.Machine.execBgeu disp s
  | .beq disp => Sys2Proof.Machine.execBeq disp s
  | .nop => Sys2Proof.Machine.execNop s
  | .liw dst imm => Sys2Proof.Machine.execLiw dst imm s
  | .bbs bit disp => Sys2Proof.Machine.execBbs bit disp s
  | .bbr bit disp => Sys2Proof.Machine.execBbr bit disp s

end Sys2Proof.Machine
end

