-- ==== Sys2Proof/Machine/Fetch.lean ====
section
/-! DEFINITION. Fetching and decoding the instruction at pc, with the order of checks of 60_exceptions.md
R311, and placing an instruction where the next fetch reads it. -/

namespace Sys2Proof.Machine

/-- What a fetch finds. -/
inductive Fetched where
  | ok (i : Instr)
  | fault (f : Fault)
  | refused (r : Refusal)
  deriving DecidableEq, Repr

/-- A decoder's answer as a fetch's. -/
def fetchedOf : Decoded → Fetched
  | .ok i => .ok i
  | .reserved m f => .refused (.reservedOperand m f)

/-- Fetch and decode (60_exceptions.md R311, checks 1 to 4): `F_BUS` on the first halfword, then what the
first halfword alone decides, then `F_BUS` on the second. The second is at pc + 2 modulo 2^32
(10_state.md R29); that of an unassigned encoding is never fetched (41_memory_reference.md R157). -/
def fetch (s : State) : Fetched :=
  if s.executable s.pc then
    let I := s.halfAt s.pc
    match decode I 0#16 with
    | .reserved m f => .refused (.reservedOperand m f)
    | .ok i =>
      if isLong I && !isUnassigned i then
        if s.executable (s.pc + 2#32) then fetchedOf (decode I (s.halfAt (s.pc + 2#32)))
        else .fault (.bus (s.pc + 2#32))
      else .ok i
  else .fault (.bus s.pc)

/-- Bytes stored at successive addresses. -/
def State.placeBytes (s : State) (a : Word) : List Byte → State
  | [] => s
  | b :: rest => (s.setByte a b).placeBytes (a + 1#32) rest

/-- The instruction whose bits are `w` stored at pc. -/
def State.placeWord (s : State) (nbits w : Nat) : State :=
  s.placeBytes s.pc (tableWordBytes nbits w)

/-- Run what a fetch found. -/
def runFetched (s : State) : Fetched → Result
  | .ok i => exec i s
  | .fault f => raise s f
  | .refused r => .refused r

end Sys2Proof.Machine
end

