-- ==== Sys2Proof/Machine/Step.lean ====
section
/-! DEFINITION. One step: one instruction, with all its effects (70_reset_and_hazards.md R350). -/

namespace Sys2Proof.Machine

/-- Fetch the instruction at pc and run it (00_scope.md R14). -/
def step (s : State) : Host.Outcome State Fault Refusal :=
  runFetched s (fetch s)

/-- The state with an instruction's bits stored where the next step fetches (log entry 20). -/
def State.withFetchWord (s : State) (nbits w : Nat) : State :=
  s.placeWord nbits w

end Sys2Proof.Machine
end

