-- ==== Sys2Proof/Safety.lean ====
section
/-! DEFINITION. The terms in which claims about the machine are stated: what an effect changes and leaves
unchanged, the machine's invariant, safe runs and the end of a run. -/

namespace Sys2Proof.Machine

/-- An outcome is a next state, and that state satisfies `P`. -/
def Runs (o : Result) (P : State → Prop) : Prop := ∃ t, o = .next t ∧ P t

/-! ## Frames -/

/-- Every general register holds what it held. -/
def RegsKept (s t : State) : Prop := ∀ n : Nibble, n ≠ 0#4 → t.reg n = s.reg n

/-- Register `dst` holds `v`, every other register what it held; where `dst` is 0 nothing is written
(30_encoding.md R97). -/
def RegWritten (s t : State) (dst : Nibble) (v : Word) : Prop :=
  (dst ≠ 0#4 → t.reg dst = v) ∧ ∀ n : Nibble, n ≠ 0#4 → n ≠ dst → t.reg n = s.reg n

/-- Every byte of memory reads as it did. -/
def MemKept (s t : State) : Prop := ∀ a : Word, t.byteAt a = s.byteAt a

/-- The four bytes from `A` on hold `v`, least significant first; every other byte reads as it did. -/
def MemWritten (s t : State) (A v : Word) : Prop :=
  t.byteAt A = v.extractLsb' 0 8 ∧ t.byteAt (A + 1#32) = v.extractLsb' 8 8 ∧
  t.byteAt (A + 2#32) = v.extractLsb' 16 8 ∧ t.byteAt (A + 3#32) = v.extractLsb' 24 8 ∧
  ∀ a : Word, a ≠ A → a ≠ A + 1#32 → a ≠ A + 2#32 → a ≠ A + 3#32 → t.byteAt a = s.byteAt a

/-- Every cpu[ ] entry but the processor status word holds what it held. -/
def CpuKept (s t : State) : Prop := ∀ k : Nibble, t.cpuReg k = s.cpuReg k

/-- Every co[ ] register holds what it held. -/
def CoKept (s t : State) : Prop := ∀ k : Nibble, t.coReg k = s.coReg k

/-- level, prior, the BCD carries, cpu[ ] and co[ ] are unchanged. -/
def SpecialKept (s t : State) : Prop :=
  t.level = s.level ∧ t.prior = s.prior ∧ t.bcd = s.bcd ∧ CpuKept s t ∧ CoKept s t

/-- The configuration is unchanged and no device has been stored to. -/
def PlatformKept (s t : State) : Prop := t.config = s.config ∧ t.deviceOut = s.deviceOut

/-- A register (or nothing) and the condition codes and pc are written; all else is unchanged. -/
def RegisterEffect (s t : State) (dst : Nibble) (v : Word) (cc : Flags) (pc : Word) : Prop :=
  RegWritten s t dst v ∧ t.cc = cc ∧ t.pc = pc ∧ t.resv = s.resv ∧ MemKept s t ∧ SpecialKept s t ∧
  PlatformKept s t

/-- Only pc is written. -/
def PcEffect (s t : State) (pc : Word) : Prop :=
  RegsKept s t ∧ t.cc = s.cc ∧ t.pc = pc ∧ t.resv = s.resv ∧ MemKept s t ∧ SpecialKept s t ∧ PlatformKept s t

/-- A word of memory and pc are written; all else is unchanged. -/
def StoreEffect (s t : State) (A v pc : Word) : Prop :=
  MemWritten s t A v ∧ RegsKept s t ∧ t.cc = s.cc ∧ t.pc = pc ∧ t.resv = s.resv ∧ SpecialKept s t ∧
  PlatformKept s t

/-- A device receives a word and pc is written; all else is unchanged. -/
def DeviceStoreEffect (s t : State) (A v pc : Word) : Prop :=
  t.deviceOut = (A, v) :: s.deviceOut ∧ MemKept s t ∧ RegsKept s t ∧ t.cc = s.cc ∧ t.pc = pc ∧
  t.resv = s.resv ∧ SpecialKept s t ∧ t.config = s.config

/-! ## Faults -/

/-- Taking a trap, in full: 60_exceptions.md R305's sketch and 20_memory.md R75. -/
def TrapEntry (s t : State) (f : Fault) (handler : Word) : Prop :=
  t.pc = handler ∧ t.tpc = s.pc ∧ t.prior = s.level ∧ t.level = 0#4 ∧ t.resv = none ∧
  (∀ addr, f = .bus addr → t.cpuReg 2#4 = addr) ∧
  (∀ k : Nibble, k ≠ 1#4 → (k ≠ 2#4 ∨ ∀ addr, f ≠ .bus addr) → t.cpuReg k = s.cpuReg k) ∧
  RegsKept s t ∧ t.cc = s.cc ∧ t.bcd = s.bcd ∧ CoKept s t ∧ MemKept s t ∧ PlatformKept s t

/-- `o` is what raising `f` in `s` gives: the fault itself where the configuration gives it no handler, else
the trap; a handler at an odd address cannot be written to pc (60_exceptions.md R300, R305, R303). The trap is
R305's sketch: PRESUMED, log entry 16. -/
def Raises (s : State) (o : Result) (f : Fault) : Prop :=
  match trapVector s.config.traps f with
  | none => o = .fault f
  | some handler =>
    if handler[0] = true then o = .fault (.pcOdd handler) else Runs o fun t => TrapEntry s t f handler

/-- Every fault is terminal: the base model of 60_exceptions.md R305. -/
def TrapsTerminal (s : State) : Prop := ∀ f, trapVector s.config.traps f = none

/-! ## Values in terms of the rules -/

/-- The word a load at `ea` returns: four bytes of memory, the lowest address least significant
(20_memory.md R61, R63), or what the device answers (R67). -/
def wordLoaded (s : State) (ea : Word) : Word :=
  let A := ea &&& 0xFFFFFFFC#32
  if s.isDevice ea then Config.deviceRead s.draws A s.deviceOut
  else s.byteAt (A + 3#32) ++ s.byteAt (A + 2#32) ++ s.byteAt (A + 1#32) ++ s.byteAt A

/-- A signed value that 32 bits do not hold: signed overflow (10_state.md R30). -/
def outOfRange (v : Int) : Bool := decide (v < -(2 ^ 31) ∨ 2 ^ 31 ≤ v)

/-- The codes of a value, with V and C given: N is its sign, Z whether it is zero (10_state.md R30). -/
def codesOf (r : Word) (v c : Bool) : Flags := { n := r.msb, z := decide (r = 0#32), v := v, c := c }

/-- The codes of `a + b + carry`, by 10_state.md R30: V the signed overflow, C the carry out of bit 31. -/
def sumCodes (a b : Word) (carry : Bool) : Flags :=
  codesOf (a + b + BitVec.ofNat 32 carry.toNat) (outOfRange (a.toInt + b.toInt + carry.toNat))
    (decide (2 ^ 32 ≤ a.toNat + b.toNat + carry.toNat))

/-- The codes of `a - b - borrow`, by 10_state.md R30 and 45_add_subtract.md R211: C is 1 where there is no
borrow. -/
def differenceCodes (a b : Word) (borrow : Bool) : Flags :=
  codesOf (a - b - BitVec.ofNat 32 borrow.toNat) (outOfRange (a.toInt - b.toInt - borrow.toNat))
    (decide (b.toNat + borrow.toNat ≤ a.toNat))

/-- A count field: 0 stands for 16 (30_encoding.md R101). -/
def count16 (f : Nibble) : Nat := if f = 0#4 then 16 else f.toNat

/-- The target of a branch at `ia`: `disp` halfwords from the next instruction (49_branch.md R265). -/
def targetOf (ia : Word) (disp : Byte) : Word := ia + 2#32 + BitVec.ofInt 32 (2 * disp.toInt)

/-! ## What the rules say of which instruction writes what -/

/-- The instructions whose B.3 entry is not `----` (10_state.md R31), and CPUSET of the processor status word,
which writes the codes as data (48_special.md R250). -/
def writesFlags : Instr → Bool
  | .movecc _ _ | .loadscc _ _ | .loadl _ _ | .storec _ _ => true
  | .leacc _ _ _ | .loadcc _ _ _ => true
  | .movesl _ _ _ | .addsl _ _ _ | .addsr _ _ _ | .addsru _ _ _ => true
  | .extb _ _ _ | .exth _ _ _ | .add _ _ _ | .sub _ _ _ => true
  | .trunc _ _ | .sxt _ _ | .addsi _ _ => true
  | .and _ _ | .or _ _ | .equ _ _ | .addc _ _ | .subb _ _ => true
  | .coget _ _ => true
  | .cpuset _ src => src == 0#4
  | .testr _ | .tests _ | .bittst31 _ | .addi _ _ _ | .cmpi _ _ | .test _ _ => true
  | .sl _ _ | .sr _ _ | .sru _ _ | .bittstLow _ _ | .bittstHigh _ _ => true
  | .neg _ _ | .cmp _ _ | .not _ | .rol _ => true
  | _ => false

/-- The instructions that can write memory (10_state.md R46). -/
def storesToMemory : Instr → Bool
  | .stores _ _ | .storec _ _ | .store _ _ _ => true
  | _ => false

/-- The instructions that read data from memory (10_state.md R46). -/
def loadsFromMemory : Instr → Bool
  | .loads _ _ | .loadscc _ _ | .loadl _ _ | .load _ _ _ | .loadcc _ _ _ | .tests _ | .test _ _ => true
  | _ => false

/-- The instructions that consult `PRIV` (60_exceptions.md R320). -/
def consultsPriv : Instr → Bool
  | .coget _ _ | .coset _ _ | .cpuget _ _ | .cpuset _ _ | .rtt => true
  | _ => false

/-- The instructions that can raise `F_PC_ODD` (60_exceptions.md R300). -/
def mayJumpOdd : Instr → Bool
  | .jsr _ _ _ | .jsrs _ _ | .jump _ _ | .jumps _ | .rtt => true
  | .loads dst _ | .load dst _ _ | .lil dst _ | .cpuget dst _ => dst == 0#4
  | _ => false

/-- The reserved operand values of 30_encoding.md R115, in its order: match and mask on the first halfword, and
the mnemonic and the zero field that the refusal names (R96). -/
def reservedRows : List (Half × Half × String × Field) :=
  [(0xF0F0#16, 0xF0FF#16, "MOVE", .dst), (0x70F0#16, 0xF0FF#16, "LEA", .dst),
    (0xA0F0#16, 0xFFF0#16, "STORES", .x), (0x90F0#16, 0xFFF0#16, "LOADL", .x), (0x80F0#16, 0xFFF0#16, "STOREC", .x),
    (0x00D0#16, 0x00FF#16, "LIS", .dst), (0x00C0#16, 0x00FF#16, "ORIS", .dst),
    (0x00B0#16, 0xF0F0#16, "MOVESL", .s1), (0x00A0#16, 0x00FF#16, "ADDSL", .dst),
    (0x0070#16, 0x00FF#16, "STUFFB", .dst), (0x0060#16, 0x00FF#16, "STUFFH", .dst),
    (0x0050#16, 0xF0F0#16, "EXTB", .s1), (0x0040#16, 0xF0F0#16, "EXTH", .s1),
    (0x0030#16, 0xF0F0#16, "ADD", .s1), (0x0030#16, 0x0FF0#16, "ADD", .s2), (0x0020#16, 0x0FF0#16, "SUB", .s2),
    (0xF010#16, 0xF0FF#16, "TRUNC", .dst), (0xE010#16, 0xF0FF#16, "SXT", .dst), (0xD010#16, 0xF0FF#16, "BTRUNC", .dst),
    (0xC010#16, 0xF0FF#16, "ADDSI", .dst), (0xB010#16, 0xF0FF#16, "AND", .dst), (0xA010#16, 0xF0FF#16, "OR", .dst),
    (0x9010#16, 0xF0FF#16, "EQU", .dst), (0x5010#16, 0xF0FF#16, "ADJUST", .dst), (0x4010#16, 0xF0FF#16, "PLUS", .dst),
    (0xB010#16, 0xFFF0#16, "AND", .src), (0xA010#16, 0xFFF0#16, "OR", .src)]

/-- The instructions that can write pc otherwise than by going on (10_state.md R27). -/
def writesPc : Instr → Bool
  | .br _ | .bns _ | .bzs _ | .bvs _ | .bcs _ | .blt _ | .ble _ | .bleu _ => true
  | .bnr _ | .bzr _ | .bvr _ | .bcr _ | .bge _ | .bgt _ | .bgtu _ => true
  | .bltu _ | .bne _ | .bgeu _ | .beq _ | .nop | .bbs _ _ | .bbr _ _ => true
  | .btrunc _ _ | .jsrs _ _ | .jsr _ _ _ | .jumps _ | .jump _ _ | .rtt => true
  | .loads dst _ | .load dst _ _ | .lil dst _ | .cpuget dst _ => dst == 0#4
  | _ => false

/-- The length of an instruction in bytes (30_encoding.md R92); LIW is the six bytes of its sequence
(42_immediate.md R174). -/
def lengthOf : Instr → Word
  | .lea _ _ _ | .leacc _ _ _ | .load _ _ _ | .loadcc _ _ _ | .jsr _ _ _ | .store _ _ _ | .lil _ _ => 4#32
  | .unassignedMem1 _ _ | .unassignedMem0 _ _ => 4#32
  | .addi _ _ _ | .cmpi _ _ | .test _ _ | .jump _ _ => 4#32
  | .liw _ _ => 6#32
  | _ => 2#32

/-- The instructions that can write level: RTT, under both its names, and CPUSET of the processor status word
(48_special.md R250, R251). -/
def writesLevel : Instr → Bool
  | .rtt => true
  | .cpuget dst src => dst == 0#4 && src == 1#4
  | .cpuset _ src => src == 0#4
  | _ => false

/-- The register an instruction's `dst` field names; 0 where it has none or discards the result. -/
def destOf : Instr → Nibble
  | .move dst _ | .movecc dst _ | .loads dst _ | .loadscc dst _ | .jsrs dst _ | .loadl dst _ => dst
  | .lea dst _ _ | .leacc dst _ _ | .load dst _ _ | .loadcc dst _ _ | .jsr dst _ _ => dst
  | .lil dst _ | .lis dst _ | .oris dst _ => dst
  | .movesl dst _ _ | .addsl dst _ _ | .addsr dst _ _ | .addsru dst _ _ => dst
  | .stuffb dst _ _ | .stuffh dst _ _ | .extb dst _ _ | .exth dst _ _ | .add dst _ _ | .sub dst _ _ => dst
  | .trunc dst _ | .sxt dst _ | .addsi dst _ => dst
  | .and dst _ | .or dst _ | .equ dst _ | .addc dst _ | .subb dst _ => dst
  | .adjust dst _ | .plus dst _ | .coget dst _ | .cpuget dst _ => dst
  | .addi dst _ _ | .clr dst | .sl dst _ | .sr dst _ | .sru dst _ | .neg dst _ | .not dst | .rol dst => dst
  | .liw dst _ => dst
  | _ => 0#4

/-! ## The invariant -/

/-- pc is even (10_state.md R28), memory has its canonical form, and a reservation is of a word address
(20_memory.md R73). -/
def Inv (s : State) : Prop :=
  s.pc[0] = false ∧ Memory.wf s.mem = true ∧ ∀ A, s.resv = some A → wordAlign A = A

/-! ## Runs -/

/-- A state from which the next step neither faults nor refuses. -/
def SafeState (s : State) : Prop := ∃ t, step s = .next t

/-- `END_OF_RUN` by the address the run is observed at (70_reset_and_hazards.md R347 (a)). -/
def AtHalt (haltPc : Word) (s : State) : Prop := s.pc = haltPc

/-- `END_OF_RUN` by a branch to itself, a fixed point of the step (70_reset_and_hazards.md R347 (b)). -/
def AtFixedPoint (s : State) : Prop := step s = .next s

end Sys2Proof.Machine
end

