-- ==== Sys2Proof/Certificates/Slice0/Obligations.lean ====
section
/-! DEFINITION. The statements for the provers. Their terms (Runs, RegisterEffect, Raises and so on) are in
Safety.lean; `s` is the state before an instruction, its pc the address of the instruction. -/

open Sys2Proof Sys2Proof.Machine

/-! ## Fetch and decode -/

/-- A step runs the instruction it decodes, and adds nothing around it (00_scope.md R14, 70 R350). A second
halfword need be fetched only where the instruction is four bytes long and assigned. -/
def Obligations.StepRunsDecodedInstruction : Prop :=
  ∀ (s : State) (i : Instr), s.executable s.pc = true →
    decode (s.halfAt s.pc) (s.halfAt (s.pc + 2#32)) = .ok i →
    (lengthOf i = 4#32 → isUnassigned i = false → s.executable (s.pc + 2#32) = true) →
    step s = exec i s

/-- The checks of a fetch in their order (60_exceptions.md R311, 1 to 4; R302): F_BUS on the first halfword,
then F_ILLEGAL of an unassigned one, whatever lies behind it (R301), then the refusal of a reserved operand, then
F_BUS on the second halfword of any other four-byte instruction. `Raises` also says what a configured handler
makes of a fault: the model's choice, log entry 16. -/
def Obligations.StepChecksFetchInOrder : Prop :=
  (∀ s : State, s.executable s.pc = false → Raises s (step s) (.bus s.pc)) ∧
  (∀ (s : State) (J : Half) (m : String) (f : Field), s.executable s.pc = true →
    decode (s.halfAt s.pc) J = .reserved m f → step s = .refused (.reservedOperand m f)) ∧
  (∀ (s : State) (J : Half) (i : Instr), s.executable s.pc = true → decode (s.halfAt s.pc) J = .ok i →
    isUnassigned i = true → Raises s (step s) (.illegal (s.halfAt s.pc))) ∧
  (∀ (s : State) (J : Half) (i : Instr), s.executable s.pc = true → decode (s.halfAt s.pc) J = .ok i →
    isUnassigned i = false → lengthOf i = 4#32 → s.executable (s.pc + 2#32) = false → Raises s (step s) (.bus (s.pc + 2#32)))

/-- Decoding the bytes of a well-formed machine instruction gives it back, whatever bytes follow; those of a
derived name give its base instruction, those of BBS and BBR the chosen branch, those of LIW its LIL and then
its ORIS (30_encoding.md R92, R95, R117, R118, R121). -/
def Obligations.DecodeOfEncodeIsTheInstruction : Prop :=
  (∀ (i : Instr) (rest : List Byte), i.wellFormed = true → expansion i = [i] →
    decodeBytes (bytesOf (encode i) ++ rest) = .ok i rest) ∧
  (∀ (i j : Instr) (rest : List Byte), i.wellFormed = true → expansion i = [j] →
    decodeBytes (bytesOf (encode i) ++ rest) = .ok j rest) ∧
  (∀ (dst : Nibble) (const : Word) (rest : List Byte), dst ≠ 0#4 → ∃ mid,
    decodeBytes (bytesOf (encode (.liw dst const)) ++ rest) = .ok (.lil dst (const.extractLsb' 8 24)) mid ∧
    decodeBytes mid = .ok (.oris dst (const.extractLsb' 0 8)) rest)

/-- Every derived name is another spelling of its base instruction's words (30_encoding.md R118), row by row of
the table; BITTST by its bit number (43_shift.md R188, R189). -/
def Obligations.DerivedNamesAreSpellings : Prop :=
  (∀ x, encode (.testr x) = encode (.movecc 0#4 x)) ∧
  (∀ x, encode (.tests x) = encode (.loadscc 0#4 x)) ∧
  (∀ x, encode (.jumps x) = encode (.jsrs 0#4 x)) ∧
  (∀ x, encode (.bittst31 x) = encode (.movecc 0#4 x)) ∧
  (∀ dst x disp, encode (.addi dst x disp) = encode (.leacc dst x disp)) ∧
  (∀ x c, encode (.cmpi x c) = encode (.leacc 0#4 x (0#16 - c))) ∧
  (∀ x disp, encode (.test x disp) = encode (.loadcc 0#4 x disp)) ∧
  (∀ x disp, encode (.jump x disp) = encode (.jsr 0#4 x disp)) ∧
  (∀ dst, encode (.clr dst) = encode (.lis dst 0#8)) ∧
  (∀ dst s, encode (.sl dst s) = encode (.addsl dst 0#4 s)) ∧
  (∀ dst s, encode (.sr dst s) = encode (.addsr dst 0#4 s)) ∧
  (∀ dst s, encode (.sru dst s) = encode (.addsru dst 0#4 s)) ∧
  (∀ (r : Nibble) (b : Nat), b ≤ 15 →
    encode (.bittstLow r (BitVec.ofNat 4 (b + 1))) = encode (.addsr 0#4 r (BitVec.ofNat 4 (b + 1)))) ∧
  (∀ (r : Nibble) (b : Nat), 16 ≤ b → b ≤ 30 →
    encode (.bittstHigh r (BitVec.ofNat 4 (31 - b))) = encode (.movesl 0#4 r (BitVec.ofNat 4 (31 - b)))) ∧
  (∀ dst s2, encode (.neg dst s2) = encode (.sub dst 0#4 s2)) ∧
  (∀ s1 s2, encode (.cmp s1 s2) = encode (.sub 0#4 s1 s2)) ∧
  (∀ dst, encode (.not dst) = encode (.equ dst 0#4)) ∧
  (∀ dst, encode (.rol dst) = encode (.addc dst dst)) ∧
  (encode .rtt = encode (.cpuget 0#4 1#4)) ∧
  (∀ disp, encode (.bltu disp) = encode (.bcr disp)) ∧
  (∀ disp, encode (.bne disp) = encode (.bzr disp)) ∧
  (∀ disp, encode (.bgeu disp) = encode (.bcs disp)) ∧
  (∀ disp, encode (.beq disp) = encode (.bzs disp)) ∧
  (encode .nop = encode (.br 0#8))

/-- Encoding what was decoded gives the halfwords back: one where the instruction is two bytes long, two where
it is four (30_encoding.md R92). The second halfword of an unassigned memory row is not kept and comes back as 0:
the model's choice, log entry 30. What the decoder answers is well formed and no derived name. -/
def Obligations.EncodeOfDecodeIsTheWords : Prop :=
  ∀ (I J : Half) (i : Instr), decode I J = .ok i →
    encode i = (if lengthOf i = 4#32 then [I, if isUnassigned i = true then 0#16 else J] else [I]) ∧ i.wellFormed = true ∧ expansion i = [i]

/-- The opcode map: each row of 30_encoding.md R110, R111 and R112 and each value of R113, by its match and
mask on the first halfword, selects its instruction with the fields of R95; a row is four bytes long where R92
says 32 bits (LIL, and `op` = 1111 with `I[15]` = 0, the two rows to which R110 gives no length among them), else
two; the decoder answers that row or refuses a reserved operand. -/
def Obligations.OpcodeMapSelectsEachRow : Prop :=
  ∀ I J : Half,
  (I &&& 0xF0F0#16 = 0xF0F0#16 → decodeRow I J = .move (I.extractLsb' 0 4) (I.extractLsb' 8 4)) ∧
  (I &&& 0xF0F0#16 = 0xE0F0#16 → decodeRow I J = .movecc (I.extractLsb' 0 4) (I.extractLsb' 8 4)) ∧
  (I &&& 0xF0F0#16 = 0xD0F0#16 → decodeRow I J = .loads (I.extractLsb' 0 4) (I.extractLsb' 8 4)) ∧
  (I &&& 0xF0F0#16 = 0xC0F0#16 → decodeRow I J = .loadscc (I.extractLsb' 0 4) (I.extractLsb' 8 4)) ∧
  (I &&& 0xF0F0#16 = 0xB0F0#16 → decodeRow I J = .jsrs (I.extractLsb' 0 4) (I.extractLsb' 8 4)) ∧
  (I &&& 0xF0F0#16 = 0xA0F0#16 → decodeRow I J = .stores (I.extractLsb' 0 4) (I.extractLsb' 8 4)) ∧
  (I &&& 0xF0F0#16 = 0x90F0#16 → decodeRow I J = .loadl (I.extractLsb' 0 4) (I.extractLsb' 8 4)) ∧
  (I &&& 0xF0F0#16 = 0x80F0#16 → decodeRow I J = .storec (I.extractLsb' 0 4) (I.extractLsb' 8 4)) ∧
  (I &&& 0xF0F0#16 = 0x70F0#16 → decodeRow I J = .lea (I.extractLsb' 0 4) (I.extractLsb' 8 4) J) ∧
  (I &&& 0xF0F0#16 = 0x60F0#16 → decodeRow I J = .leacc (I.extractLsb' 0 4) (I.extractLsb' 8 4) J) ∧
  (I &&& 0xF0F0#16 = 0x50F0#16 → decodeRow I J = .load (I.extractLsb' 0 4) (I.extractLsb' 8 4) J) ∧
  (I &&& 0xF0F0#16 = 0x40F0#16 → decodeRow I J = .loadcc (I.extractLsb' 0 4) (I.extractLsb' 8 4) J) ∧
  (I &&& 0xF0F0#16 = 0x30F0#16 → decodeRow I J = .jsr (I.extractLsb' 0 4) (I.extractLsb' 8 4) J) ∧
  (I &&& 0xF0F0#16 = 0x20F0#16 → decodeRow I J = .store (I.extractLsb' 0 4) (I.extractLsb' 8 4) J) ∧
  (I &&& 0xF0F0#16 = 0x10F0#16 → decodeRow I J = .unassignedMem1 (I.extractLsb' 0 4) (I.extractLsb' 8 4)) ∧
  (I &&& 0xF0F0#16 = 0x00F0#16 → decodeRow I J = .unassignedMem0 (I.extractLsb' 0 4) (I.extractLsb' 8 4)) ∧
  (I &&& 0x00F0#16 = 0x00E0#16 → decodeRow I J = .lil (I.extractLsb' 0 4) (J ++ I.extractLsb' 8 8)) ∧
  (I &&& 0x00F0#16 = 0x00D0#16 → decodeRow I J = .lis (I.extractLsb' 0 4) (I.extractLsb' 8 8)) ∧
  (I &&& 0x00F0#16 = 0x00C0#16 → decodeRow I J = .oris (I.extractLsb' 0 4) (I.extractLsb' 8 8)) ∧
  (I &&& 0x00F0#16 = 0x00B0#16 → decodeRow I J = .movesl (I.extractLsb' 0 4) (I.extractLsb' 12 4) (I.extractLsb' 8 4)) ∧
  (I &&& 0x00F0#16 = 0x00A0#16 → decodeRow I J = .addsl (I.extractLsb' 0 4) (I.extractLsb' 12 4) (I.extractLsb' 8 4)) ∧
  (I &&& 0x00F0#16 = 0x0090#16 → decodeRow I J = .addsr (I.extractLsb' 0 4) (I.extractLsb' 12 4) (I.extractLsb' 8 4)) ∧
  (I &&& 0x00F0#16 = 0x0080#16 → decodeRow I J = .addsru (I.extractLsb' 0 4) (I.extractLsb' 12 4) (I.extractLsb' 8 4)) ∧
  (I &&& 0x00F0#16 = 0x0070#16 → decodeRow I J = .stuffb (I.extractLsb' 0 4) (I.extractLsb' 12 4) (I.extractLsb' 8 4)) ∧
  (I &&& 0x00F0#16 = 0x0060#16 → decodeRow I J = .stuffh (I.extractLsb' 0 4) (I.extractLsb' 12 4) (I.extractLsb' 8 4)) ∧
  (I &&& 0x00F0#16 = 0x0050#16 → decodeRow I J = .extb (I.extractLsb' 0 4) (I.extractLsb' 12 4) (I.extractLsb' 8 4)) ∧
  (I &&& 0x00F0#16 = 0x0040#16 → decodeRow I J = .exth (I.extractLsb' 0 4) (I.extractLsb' 12 4) (I.extractLsb' 8 4)) ∧
  (I &&& 0x00F0#16 = 0x0030#16 → decodeRow I J = .add (I.extractLsb' 0 4) (I.extractLsb' 12 4) (I.extractLsb' 8 4)) ∧
  (I &&& 0x00F0#16 = 0x0020#16 → decodeRow I J = .sub (I.extractLsb' 0 4) (I.extractLsb' 12 4) (I.extractLsb' 8 4)) ∧
  (I &&& 0xF0F0#16 = 0xF010#16 → decodeRow I J = .trunc (I.extractLsb' 0 4) (I.extractLsb' 8 4)) ∧
  (I &&& 0xF0F0#16 = 0xE010#16 → decodeRow I J = .sxt (I.extractLsb' 0 4) (I.extractLsb' 8 4)) ∧
  (I &&& 0xF0F0#16 = 0xD010#16 → decodeRow I J = .btrunc (I.extractLsb' 0 4) (I.extractLsb' 8 4)) ∧
  (I &&& 0xF0F0#16 = 0xC010#16 → decodeRow I J = .addsi (I.extractLsb' 0 4) (I.extractLsb' 8 4)) ∧
  (I &&& 0xF0F0#16 = 0xB010#16 → decodeRow I J = .and (I.extractLsb' 0 4) (I.extractLsb' 8 4)) ∧
  (I &&& 0xF0F0#16 = 0xA010#16 → decodeRow I J = .or (I.extractLsb' 0 4) (I.extractLsb' 8 4)) ∧
  (I &&& 0xF0F0#16 = 0x9010#16 → decodeRow I J = .equ (I.extractLsb' 0 4) (I.extractLsb' 8 4)) ∧
  (I &&& 0xF0F0#16 = 0x8010#16 → decodeRow I J = .unassignedTwoReg (I.extractLsb' 0 4) (I.extractLsb' 8 4)) ∧
  (I &&& 0xF0F0#16 = 0x7010#16 → decodeRow I J = .addc (I.extractLsb' 0 4) (I.extractLsb' 8 4)) ∧
  (I &&& 0xF0F0#16 = 0x6010#16 → decodeRow I J = .subb (I.extractLsb' 0 4) (I.extractLsb' 8 4)) ∧
  (I &&& 0xF0F0#16 = 0x5010#16 → decodeRow I J = .adjust (I.extractLsb' 0 4) (I.extractLsb' 8 4)) ∧
  (I &&& 0xF0F0#16 = 0x4010#16 → decodeRow I J = .plus (I.extractLsb' 0 4) (I.extractLsb' 8 4)) ∧
  (I &&& 0xF0F0#16 = 0x3010#16 → decodeRow I J = .coget (I.extractLsb' 0 4) (I.extractLsb' 8 4)) ∧
  (I &&& 0xF0F0#16 = 0x2010#16 → decodeRow I J = .coset (I.extractLsb' 0 4) (I.extractLsb' 8 4)) ∧
  (I &&& 0xF0F0#16 = 0x1010#16 → decodeRow I J = .cpuget (I.extractLsb' 0 4) (I.extractLsb' 8 4)) ∧
  (I &&& 0xF0F0#16 = 0x0010#16 → decodeRow I J = .cpuset (I.extractLsb' 0 4) (I.extractLsb' 8 4)) ∧
  (I &&& 0x00FF#16 = 0x0000#16 → decodeRow I J = .br (I.extractLsb' 8 8)) ∧
  (I &&& 0x00FF#16 = 0x0001#16 → decodeRow I J = .bns (I.extractLsb' 8 8)) ∧
  (I &&& 0x00FF#16 = 0x0002#16 → decodeRow I J = .bzs (I.extractLsb' 8 8)) ∧
  (I &&& 0x00FF#16 = 0x0003#16 → decodeRow I J = .bvs (I.extractLsb' 8 8)) ∧
  (I &&& 0x00FF#16 = 0x0004#16 → decodeRow I J = .bcs (I.extractLsb' 8 8)) ∧
  (I &&& 0x00FF#16 = 0x0005#16 → decodeRow I J = .blt (I.extractLsb' 8 8)) ∧
  (I &&& 0x00FF#16 = 0x0006#16 → decodeRow I J = .ble (I.extractLsb' 8 8)) ∧
  (I &&& 0x00FF#16 = 0x0007#16 → decodeRow I J = .bleu (I.extractLsb' 8 8)) ∧
  (I &&& 0x00FF#16 = 0x0008#16 → decodeRow I J = .unassignedBranch (I.extractLsb' 8 8)) ∧
  (I &&& 0x00FF#16 = 0x0009#16 → decodeRow I J = .bnr (I.extractLsb' 8 8)) ∧
  (I &&& 0x00FF#16 = 0x000A#16 → decodeRow I J = .bzr (I.extractLsb' 8 8)) ∧
  (I &&& 0x00FF#16 = 0x000B#16 → decodeRow I J = .bvr (I.extractLsb' 8 8)) ∧
  (I &&& 0x00FF#16 = 0x000C#16 → decodeRow I J = .bcr (I.extractLsb' 8 8)) ∧
  (I &&& 0x00FF#16 = 0x000D#16 → decodeRow I J = .bge (I.extractLsb' 8 8)) ∧
  (I &&& 0x00FF#16 = 0x000E#16 → decodeRow I J = .bgt (I.extractLsb' 8 8)) ∧
  (I &&& 0x00FF#16 = 0x000F#16 → decodeRow I J = .bgtu (I.extractLsb' 8 8)) ∧
  (lengthOf (decodeRow I J) =
    if I &&& 0x00F0#16 = 0x00E0#16 ∨ I &&& 0x80F0#16 = 0x00F0#16 then 4#32 else 2#32) ∧
  (decode I J = .ok (decodeRow I J) ∨ ∃ m f, decode I J = .reserved m f)

/-- The reserved encodings are exactly those of 30_encoding.md R115, by match and mask: a refusal names the
mnemonic and the field of a listed row that the halfword matches, and every halfword that matches a listed row is
refused with that row's mnemonic. Where several fields are zero the refusal names one of them. -/
def Obligations.ReservedEncodingsAreExactlyThoseListed : Prop :=
  ∀ I J : Half,
    (∀ m f, decode I J = .reserved m f → ∃ v mask, (v, mask, m, f) ∈ reservedRows ∧ I &&& mask = v) ∧
    (∀ v mask m f, (v, mask, m, f) ∈ reservedRows → I &&& mask = v → ∃ f', decode I J = .reserved m f')

/-- Words of the spec's own examples, each the instruction it stands for: in order, those of
40_short_memory_reference.md R131 and R137, 41_memory_reference.md R151, 42_immediate.md R170 and R172,
43_shift.md R181, 44_byte_halfword.md R203, 45_add_subtract.md R211, 46_short_constant.md R223,
47_two_register.md R232, 48_special.md R251, 49_branch.md R266 and R267, and vector M9 of 95_test_vectors.md. -/
def Obligations.PrintedWordsDecode : Prop :=
  decode 0xF4F3#16 0#16 = .ok (.move 3#4 4#4) ∧ decode 0x84F3#16 0#16 = .ok (.storec 3#4 4#4) ∧
  decode 0x72F3#16 0x0008#16 = .ok (.lea 3#4 2#4 8#16) ∧ decode 0x56E3#16 0x1234#16 = .ok (.lil 3#4 0x123456#24) ∧
  decode 0x78C3#16 0#16 = .ok (.oris 3#4 0x78#8) ∧ decode 0x42B3#16 0#16 = .ok (.movesl 3#4 4#4 2#4) ∧
  decode 0x4543#16 0#16 = .ok (.exth 3#4 4#4 5#4) ∧ decode 0x4523#16 0#16 = .ok (.sub 3#4 4#4 5#4) ∧
  decode 0xCF13#16 0#16 = .ok (.addsi 3#4 15#4) ∧ decode 0x9413#16 0#16 = .ok (.equ 3#4 4#4) ∧
  decode 0x1110#16 0#16 = .ok (.cpuget 0#4 1#4) ∧ decode 0x0300#16 0#16 = .ok (.br 3#8) ∧
  decode 0x0000#16 0#16 = .ok (.br 0#8) ∧ decode 0x0308#16 0#16 = .ok (.unassignedBranch 3#8)

/-- The small constants of 30_encoding.md R105, R106 and R107: a count is 1 to 16, and 16 for field 0; ADDSI's
constant is 8 for field 0, else the signed field. -/
def Obligations.SmallConstantsAsTheRulesSay : Prop :=
  (∀ f : Nibble, shiftCount f = (if f = 0#4 then 16 else f.toNat) ∧ 1 ≤ shiftCount f ∧ shiftCount f ≤ 16) ∧
  (∀ f : Nibble, bitCount f = (if f = 0#4 then 16 else f.toNat) ∧ 1 ≤ bitCount f ∧ bitCount f ≤ 16) ∧
  (∀ f : Nibble, (shortConst f).toInt = (if f = 0#4 then 8 else f.toInt) ∧
    -8 ≤ (shortConst f).toInt ∧ (shortConst f).toInt ≤ 8 ∧ (shortConst f).toInt ≠ 0)

/-! ## The machine as a whole -/

/-- Every step keeps the invariant: pc stays even (10_state.md R28), memory keeps its canonical form, a
reservation is of a word address (20_memory.md R73). A step may be a trap, where the configuration gives the fault
a handler; that it keeps the invariant rests on log entry 16. -/
def Obligations.StepKeepsInvariant : Prop :=
  ∀ s t : State, Inv s → step s = .next t → Inv t

/-- The invariant holds at reset, whose pc and empty memory are the model's values (log entries 4 and 6). -/
def Obligations.ResetMeetsInvariant : Prop := Inv State.reset

/-- What reset leaves. R50 gives `resv` = none and a most privileged level; pc 0 and level 0 are the family's
(log entry 6), the zeros are the model's choice (log entries 4 and 5), so is the flat memory map (3). -/
def Obligations.ResetLeavesTheLoggedValues : Prop :=
  State.reset.resv = none ∧ State.reset.pc = 0#32 ∧ State.reset.level = 0#4 ∧ State.reset.prior = 0#4 ∧
  State.reset.bcd = 0#8 ∧ State.reset.cc = { n := false, z := false, v := false, c := false } ∧
  (∀ n, State.reset.reg n = 0#32) ∧ (∀ k, State.reset.cpuReg k = 0#32) ∧ (∀ k, State.reset.coReg k = 0#32) ∧
  (∀ a, State.reset.byteAt a = 0#8) ∧ (∀ a, State.reset.executable a = true) ∧ TrapsTerminal State.reset

/-- An instruction whose row of 10_state.md R31 says none leaves the four codes; CPUSET of the processor
status word writes them as data (R31's last sentence; R250; that it is cpu[0] is log entry 7). That a trap, where
the configuration gives the fault a handler, keeps the codes is the model's reading: log entry 16. -/
def Obligations.OnlyListedInstructionsWriteCodes : Prop :=
  ∀ (i : Instr) (s t : State), writesFlags i = false → exec i s = .next t → t.cc = s.cc

/-- Only STORES, STORE and STOREC write memory or a device; no other instruction touches a byte
(10_state.md R46, 20_memory.md R65). That a trap, where the configuration gives the fault a handler, touches none
either is the model's reading: log entry 16; the record of device stores is log entry 14. -/
def Obligations.OnlyStoresWriteMemory : Prop :=
  ∀ (i : Instr) (s t : State), storesToMemory i = false → exec i s = .next t →
    MemKept s t ∧ t.deviceOut = s.deviceOut

/-- An instruction that is not in the list of 10_state.md R27 goes on at the next sequential instruction. The
premise that faults are terminal leaves out trap entry, which no instruction's own rule describes. -/
def Obligations.OnlyListedInstructionsLeaveSequence : Prop :=
  ∀ (i : Instr) (s t : State), TrapsTerminal s → writesPc i = false → exec i s = .next t →
    t.pc = s.pc + lengthOf i

/-- With terminal faults only RTT and CPUSET of the processor status word change the level, and only the
latter changes prior and the BCD carries (60_exceptions.md R320, 48_special.md R250, R251). The model's choices in
it: that the status word is cpu[0] and holds them, log entry 7; that no other instruction writes the BCD carries,
log entry 22. -/
def Obligations.OnlyRttAndCpusetChangeLevel : Prop :=
  ∀ (i : Instr) (s t : State), TrapsTerminal s → exec i s = .next t →
    (writesLevel i = false → t.level = s.level) ∧
    ((∀ r, i ≠ .cpuset r 0#4) → t.prior = s.prior ∧ t.bcd = s.bcd)

/-- Whatever an instruction does, every general register but the one its `dst` field names holds what it held;
where that field is 0 none is written (10_state.md R21, 30_encoding.md R97). That a trap, where the configuration
gives the fault a handler, keeps every general register is the model's reading: log entry 16. -/
def Obligations.OnlyDestinationRegisterWritten : Prop :=
  ∀ (i : Instr) (s t : State) (n : Nibble), exec i s = .next t → n ≠ 0#4 → n ≠ destOf i → t.reg n = s.reg n

/-- Where faults are terminal, each fault of 60_exceptions.md R300 comes only from the instructions its row
names and records what the row says; no arithmetic instruction faults (R308). -/
def Obligations.FaultsComeOnlyFromListedInstructions : Prop :=
  ∀ (i : Instr) (s : State) (f : Fault), TrapsTerminal s → exec i s = .fault f →
    match f with
    | .illegal I => isUnassigned i = true ∧ (encode i).head? = some I
    | .bus a => (loadsFromMemory i = true ∨ storesToMemory i = true) ∧ a &&& 3#32 = 0#32
    | .pcOdd v => mayJumpOdd i = true ∧ v[0] = true
    | .priv I => consultsPriv i = true ∧ encode i = [I]
    | .coproc k => (∃ r, i = .coget r k) ∨ (∃ r, i = .coset r k)

/-- A term with a zero in a field that must not be zero is refused, by its own mnemonic and field, in every
state (30_encoding.md R96, R102; 60_exceptions.md R307). That exec refuses such terms, which the decoder never
answers, and that of two zero fields the first is named, is the model's choice: log entry 18. -/
def Obligations.ZeroInNonzeroFieldIsRefused : Prop :=
  ∀ (s : State) (a b : Nibble) (c : Byte) (d : Half),
    exec (.move 0#4 a) s = .refused (.reservedOperand "MOVE" .dst) ∧
    exec (.lea 0#4 a d) s = .refused (.reservedOperand "LEA" .dst) ∧
    exec (.stores a 0#4) s = .refused (.reservedOperand "STORES" .x) ∧
    exec (.loadl a 0#4) s = .refused (.reservedOperand "LOADL" .x) ∧
    exec (.storec a 0#4) s = .refused (.reservedOperand "STOREC" .x) ∧
    exec (.lis 0#4 c) s = .refused (.reservedOperand "LIS" .dst) ∧
    exec (.oris 0#4 c) s = .refused (.reservedOperand "ORIS" .dst) ∧
    exec (.movesl a 0#4 b) s = .refused (.reservedOperand "MOVESL" .s1) ∧
    exec (.addsl 0#4 a b) s = .refused (.reservedOperand "ADDSL" .dst) ∧
    exec (.stuffb 0#4 a b) s = .refused (.reservedOperand "STUFFB" .dst) ∧
    exec (.stuffh 0#4 a b) s = .refused (.reservedOperand "STUFFH" .dst) ∧
    exec (.extb a 0#4 b) s = .refused (.reservedOperand "EXTB" .s1) ∧
    exec (.exth a 0#4 b) s = .refused (.reservedOperand "EXTH" .s1) ∧
    exec (.add a 0#4 b) s = .refused (.reservedOperand "ADD" .s1) ∧
    (b ≠ 0#4 → exec (.add a b 0#4) s = .refused (.reservedOperand "ADD" .s2)) ∧
    exec (.sub a b 0#4) s = .refused (.reservedOperand "SUB" .s2) ∧
    exec (.trunc 0#4 a) s = .refused (.reservedOperand "TRUNC" .dst) ∧
    exec (.sxt 0#4 a) s = .refused (.reservedOperand "SXT" .dst) ∧
    exec (.btrunc 0#4 a) s = .refused (.reservedOperand "BTRUNC" .dst) ∧
    exec (.addsi 0#4 a) s = .refused (.reservedOperand "ADDSI" .dst) ∧
    exec (.and 0#4 a) s = .refused (.reservedOperand "AND" .dst) ∧
    (b ≠ 0#4 → exec (.and b 0#4) s = .refused (.reservedOperand "AND" .src)) ∧
    exec (.or 0#4 a) s = .refused (.reservedOperand "OR" .dst) ∧
    (b ≠ 0#4 → exec (.or b 0#4) s = .refused (.reservedOperand "OR" .src)) ∧
    exec (.equ 0#4 a) s = .refused (.reservedOperand "EQU" .dst) ∧
    exec (.adjust 0#4 a) s = .refused (.reservedOperand "ADJUST" .dst) ∧
    exec (.plus 0#4 a) s = .refused (.reservedOperand "PLUS" .dst)

/-! ## Faults and traps -/

/-- The four unassigned encodings raise F_ILLEGAL of their first halfword (30_encoding.md R114,
60_exceptions.md R301): terminal with no handler; with one at an even address, the trap of R305's sketch (log
entry 16). The first clause names them by their words, the second by their constructors. -/
def Obligations.UnassignedEncodingsRaiseIllegal : Prop :=
  (∀ (s : State) (I J : Half), I &&& 0xF0F0#16 = 0x10F0#16 ∨ I &&& 0xF0F0#16 = 0x00F0#16 ∨
      I &&& 0xF0F0#16 = 0x8010#16 ∨ I &&& 0x00FF#16 = 0x0008#16 →
    ∃ i, decode I J = .ok i ∧ Raises s (exec i s) (.illegal I)) ∧
  (∀ (i : Instr) (s : State) (I : Half), isUnassigned i = true → (encode i).head? = some I →
    (s.config.traps.illegal = none → exec i s = .fault (.illegal I)) ∧
    (∀ h : Word, s.config.traps.illegal = some h → h[0] = false →
      Runs (exec i s) fun t => TrapEntry s t (.illegal I) h))

/-- Raising a fault: terminal with no handler (60_exceptions.md R300); with one, the trap of R305's sketch in
full (a configuration PRESUMED from the family: log entry 16); a handler at an odd address is itself
F_PC_ODD. -/
def Obligations.RaisingAFaultIsTerminalOrTraps : Prop :=
  ∀ (s : State) (f : Fault),
    (trapVector s.config.traps f = none → raise s f = .fault f) ∧
    (∀ h, trapVector s.config.traps f = some h → h[0] = false → Runs (raise s f) fun t => TrapEntry s t f h) ∧
    (∀ h, trapVector s.config.traps f = some h → h[0] = true → raise s f = .fault (.pcOdd h))

/-- A trap and then RTT: pc and level are what they were, so the instruction is run again; registers, codes
and memory are untouched throughout (60_exceptions.md R305, R312; log entry 16). -/
def Obligations.TrapThenRttReturns : Prop :=
  ∀ (s : State) (f : Fault) (h : Word), trapVector s.config.traps f = some h → h[0] = false →
    s.pc[0] = false → s.config.priv.cpuget[0] = false → s.config.priv.rtt[0] = false →
    Runs (raise s f) fun t => Runs (exec .rtt t) fun u =>
      u.pc = s.pc ∧ u.level = s.level ∧ u.prior = s.level ∧ u.tpc = s.pc ∧ u.resv = none ∧
      RegsKept s u ∧ u.cc = s.cc ∧ u.bcd = s.bcd ∧ CoKept s u ∧ MemKept s u ∧ PlatformKept s u

/-! ## Addition and its codes -/

/-- `addc32` (00_scope.md R12): the sum modulo 2^32, N its bit 31, Z whether it is zero, V the signed overflow
by its sign formula, C the carry out of bit 31. Subtraction adds the complement, so that C = 1 means no borrow;
`setNZ` sets N and Z of a value. -/
def Obligations.AdditionAndItsCodes : Prop :=
  ∀ (a b : Word) (cin : Bool),
    (addc32 a b cin).1 = BitVec.ofNat 32 ((a.toNat + b.toNat + cin.toNat) % 2 ^ 32) ∧
    (addc32 a b cin).2.n = (addc32 a b cin).1[31] ∧
    ((addc32 a b cin).2.z = true ↔ (addc32 a b cin).1 = 0#32) ∧
    ((addc32 a b cin).2.v = true ↔ a[31] = b[31] ∧ (addc32 a b cin).1[31] ≠ a[31]) ∧
    (addc32 a b cin).2.c.toNat = (a.toNat + b.toNat + cin.toNat) / 2 ^ 32 ∧
    (addc32 a (~~~ b) true).1 = a - b ∧ ((addc32 a (~~~ b) true).2.c = true ↔ b.toNat ≤ a.toNat) ∧
    (addc32 a (~~~ b) cin).1 = a - b - BitVec.ofNat 32 (1 - cin.toNat) ∧
    (∀ vc, (flagsNZ a vc).n = a[31] ∧ ((flagsNZ a vc).z = true ↔ a = 0#32))

/-- ADD and ADDSI: the sum modulo 2^32 and the codes of the addition; a `dst` of 0 in ADD discards the sum
and still sets the codes (45_add_subtract.md R210, 46_short_constant.md R223). -/
def Obligations.AddInstructionsAdd : Prop :=
  (∀ (s : State) (dst s1 s2 : Nibble), s1 ≠ 0#4 → s2 ≠ 0#4 →
    Runs (exec (.add dst s1 s2) s) fun t =>
      RegisterEffect s t dst (s.reg s1 + s.reg s2) (sumCodes (s.reg s1) (s.reg s2) false) (s.pc + 2#32)) ∧
  (∀ (s : State) (dst c : Nibble), dst ≠ 0#4 →
    let k : Word := if c = 0#4 then 8#32 else BitVec.ofInt 32 c.toInt
    Runs (exec (.addsi dst c) s) fun t =>
      RegisterEffect s t dst (s.reg dst + k) (sumCodes (s.reg dst) k false) (s.pc + 2#32))

/-- SUB, NEG and CMP: the difference, and codes with C = 1 exactly where there is no borrow, V exactly where
the signed difference is out of range, Z exactly where the operands are equal (45_add_subtract.md R211 to
R213). -/
def Obligations.SubtractInstructionsSubtract : Prop :=
  (∀ (s : State) (dst s1 s2 : Nibble), s2 ≠ 0#4 →
    let a := if s1 = 0#4 then 0#32 else s.reg s1
    Runs (exec (.sub dst s1 s2) s) fun t =>
      RegisterEffect s t dst (a - s.reg s2) (differenceCodes a (s.reg s2) false) (s.pc + 2#32)) ∧
  (∀ (s : State) (dst s2 : Nibble), s2 ≠ 0#4 →
    Runs (exec (.neg dst s2) s) fun t =>
      RegisterEffect s t dst (0#32 - s.reg s2) (differenceCodes 0#32 (s.reg s2) false) (s.pc + 2#32)) ∧
  (∀ (s : State) (s1 s2 : Nibble), s2 ≠ 0#4 →
    let a := if s1 = 0#4 then 0#32 else s.reg s1
    Runs (exec (.cmp s1 s2) s) fun t =>
      PcEffect { s with cc := differenceCodes a (s.reg s2) false } t (s.pc + 2#32) ∧
      (t.cc.n != t.cc.v) = decide (a.toInt < (s.reg s2).toInt) ∧
      t.cc.z = decide (a = s.reg s2) ∧ t.cc.c = decide ((s.reg s2).toNat ≤ a.toNat))

/-- ADDC, SUBB and ROL take the carry in; a `dst` or `src` of 0 reads as 0 and a `dst` of 0 discards
(47_two_register.md R234, R235, R237; 30_encoding.md R109). ROL is a rotation through the carry. -/
def Obligations.CarryInstructionsTakeTheCarry : Prop :=
  (∀ (s : State) (dst src : Nibble),
    let d := if dst = 0#4 then 0#32 else s.reg dst
    let a := if src = 0#4 then 0#32 else s.reg src
    Runs (exec (.addc dst src) s) fun t =>
      RegisterEffect s t dst (d + a + BitVec.ofNat 32 s.cc.c.toNat) (sumCodes d a s.cc.c) (s.pc + 2#32)) ∧
  (∀ (s : State) (dst src : Nibble),
    let d := if dst = 0#4 then 0#32 else s.reg dst
    let a := if src = 0#4 then 0#32 else s.reg src
    Runs (exec (.subb dst src) s) fun t =>
      RegisterEffect s t dst (d - a - BitVec.ofNat 32 (!s.cc.c).toNat) (differenceCodes d a (!s.cc.c))
        (s.pc + 2#32)) ∧
  (∀ (s : State) (dst : Nibble),
    let d := if dst = 0#4 then 0#32 else s.reg dst
    let r := (d <<< 1) ||| BitVec.ofNat 32 s.cc.c.toNat
    Runs (exec (.rol dst) s) fun t =>
      RegisterEffect s t dst r (codesOf r (d[31] != d[30]) d[31]) (s.pc + 2#32))

/-- ADD of the low words and then ADDC of the high words adds two 64-bit numbers (47_two_register.md R234, its
stated purpose). -/
def Obligations.AddThenAddcAddsDoubleWords : Prop :=
  ∀ (s : State) (low high lowAddend highAddend : Nibble),
    low ≠ 0#4 → high ≠ 0#4 → lowAddend ≠ 0#4 → highAddend ≠ 0#4 → high ≠ low → highAddend ≠ low →
    Runs (exec (.add low low lowAddend) s) fun t => Runs (exec (.addc high highAddend) t) fun u =>
      (u.reg high ++ u.reg low : BitVec 64) =
        (s.reg high ++ s.reg low : BitVec 64) + (s.reg highAddend ++ s.reg lowAddend : BitVec 64)

/-- LEACC and ADDI: base plus signed displacement, with the codes of that addition (41_memory_reference.md
R152, R158). -/
def Obligations.LeaccAddsTheDisplacement : Prop :=
  ∀ (s : State) (dst x : Nibble) (disp : Half),
    let a := if x = 0#4 then s.pc + 4#32 else s.reg x
    let k := BitVec.ofInt 32 disp.toInt
    (Runs (exec (.leacc dst x disp) s) fun t =>
      RegisterEffect s t dst (a + k) (sumCodes a k false) (s.pc + 4#32)) ∧
    (Runs (exec (.addi dst x disp) s) fun t =>
      RegisterEffect s t dst (a + k) (sumCodes a k false) (s.pc + 4#32))

/-- CMPI writes nothing but the codes: for a constant that is not 0 those of the comparison with it, for the
constant 0 those of adding 0, so C = 0 (41_memory_reference.md R159). `k` is the operand, -32767 to 32768. -/
def Obligations.CmpiComparesWithAConstant : Prop :=
  ∀ (s : State) (x : Nibble) (c : Half),
    let a := if x = 0#4 then s.pc + 4#32 else s.reg x
    let k := BitVec.ofInt 32 (-(0#16 - c).toInt)
    Runs (exec (.cmpi x c) s) fun t =>
      RegsKept s t ∧ t.pc = s.pc + 4#32 ∧ t.resv = s.resv ∧ MemKept s t ∧ SpecialKept s t ∧
      PlatformKept s t ∧ t.cc = (if c = 0#16 then codesOf a false false else differenceCodes a k false) ∧
      (t.cc.z = true ↔ a = k)

/-! ## Moves, addresses, immediates -/

/-- MOVE and LEA copy the effective address and touch no code; an index field of 0 is pc
(40_short_memory_reference.md R131, 41_memory_reference.md R151). -/
def Obligations.MoveAndLeaCopyTheAddress : Prop :=
  (∀ (s : State) (dst x : Nibble), dst ≠ 0#4 →
    Runs (exec (.move dst x) s) fun t =>
      RegisterEffect s t dst (if x = 0#4 then s.pc + 2#32 else s.reg x) s.cc (s.pc + 2#32)) ∧
  (∀ (s : State) (dst x : Nibble) (disp : Half), dst ≠ 0#4 →
    Runs (exec (.lea dst x disp) s) fun t =>
      RegisterEffect s t dst ((if x = 0#4 then s.pc + 4#32 else s.reg x) + BitVec.ofInt 32 disp.toInt) s.cc
        (s.pc + 4#32))

/-- MOVECC, TESTR and BITTST x,31: N and Z of the value, V and C cleared; a `dst` of 0 writes no register
(40_short_memory_reference.md R132, R139, R142; 90_conflicts.md C3). -/
def Obligations.MoveccSetsSignAndZero : Prop :=
  ∀ (s : State) (dst x : Nibble),
    let v := if x = 0#4 then s.pc + 2#32 else s.reg x
    (Runs (exec (.movecc dst x) s) fun t => RegisterEffect s t dst v (codesOf v false false) (s.pc + 2#32)) ∧
    (Runs (exec (.testr x) s) fun t => RegisterEffect s t 0#4 v (codesOf v false false) (s.pc + 2#32)) ∧
    (Runs (exec (.bittst31 x) s) fun t =>
      RegisterEffect s t 0#4 v (codesOf v false false) (s.pc + 2#32) ∧ t.cc.n = v[31])

/-- LIL with a register, LIS, ORIS, CLR and LIW (42_immediate.md R170 to R174; LIW is six bytes), and LIL with
`dst` = 0, a jump to the constant where it is even. No code is written. -/
def Obligations.ImmediatesLoadTheConstant : Prop :=
  (∀ (s : State) (dst : Nibble) (c : BitVec 24), dst ≠ 0#4 →
    Runs (exec (.lil dst c) s) fun t => RegisterEffect s t dst (BitVec.ofInt 32 c.toInt) s.cc (s.pc + 4#32)) ∧
  (∀ (s : State) (k : BitVec 24), k[0] = false →
    Runs (exec (.lil 0#4 k) s) fun t => PcEffect s t (BitVec.ofInt 32 k.toInt)) ∧
  (∀ (s : State) (dst : Nibble) (c : Byte), dst ≠ 0#4 →
    Runs (exec (.lis dst c) s) fun t => RegisterEffect s t dst (BitVec.ofInt 32 c.toInt) s.cc (s.pc + 2#32)) ∧
  (∀ (s : State) (dst : Nibble) (c : Byte), dst ≠ 0#4 →
    Runs (exec (.oris dst c) s) fun t =>
      RegisterEffect s t dst (BitVec.ofNat 32 ((s.reg dst).toNat % 2 ^ 24 * 2 ^ 8 + c.toNat)) s.cc
        (s.pc + 2#32)) ∧
  (∀ (s : State) (dst : Nibble), dst ≠ 0#4 →
    Runs (exec (.clr dst) s) fun t => RegisterEffect s t dst 0#32 s.cc (s.pc + 2#32)) ∧
  (∀ (s : State) (dst : Nibble) (const : Word), dst ≠ 0#4 →
    Runs (exec (.liw dst const) s) fun t => RegisterEffect s t dst const s.cc (s.pc + 6#32))

/-- ADJUST adds 2^i for index 8 + i and an open value for an index 0 to 7 that the configuration defines (log
entry 11), and is refused as adj_unmapped for one that it does not; PLUS adds a register or pc; neither writes a
code (48_special.md R245, R246; 60_exceptions.md R307). -/
def Obligations.AdjustAndPlusLeaveTheCodes : Prop :=
  (∀ (s : State) (dst src : Nibble), dst ≠ 0#4 → 8#4 ≤ src →
    Runs (exec (.adjust dst src) s) fun t =>
      RegisterEffect s t dst (s.reg dst + BitVec.ofNat 32 (2 ^ (src.toNat - 8))) s.cc (s.pc + 2#32)) ∧
  (∀ (s : State) (dst src : Nibble), dst ≠ 0#4 → src < 8#4 → s.config.adjMap.getLsbD src.toNat = false →
    exec (.adjust dst src) s = .refused (.adjUnmapped src)) ∧
  (∀ (s : State) (dst src : Nibble), dst ≠ 0#4 → src < 8#4 → s.config.adjMap.getLsbD src.toNat = true →
    Runs (exec (.adjust dst src) s) fun t =>
      RegisterEffect s t dst (s.reg dst + Config.adjOpen src s.pswWord) s.cc (s.pc + 2#32)) ∧
  (∀ (s : State) (dst src : Nibble), dst ≠ 0#4 →
    Runs (exec (.plus dst src) s) fun t =>
      RegisterEffect s t dst (s.reg dst + (if src = 0#4 then s.pc + 2#32 else s.reg src)) s.cc (s.pc + 2#32))

/-! ## Loads and stores -/

/-- LOADS and LOAD into a register: the aligned word that holds the address, no code
(40_short_memory_reference.md R133, 41_memory_reference.md R153, 20_memory.md R63; what a device answers is free:
log entry 14). -/
def Obligations.LoadsReadTheAlignedWord : Prop :=
  (∀ (s : State) (dst x : Nibble), dst ≠ 0#4 →
    let ea := if x = 0#4 then s.pc + 2#32 else s.reg x
    s.readable ea = true →
    Runs (exec (.loads dst x) s) fun t => RegisterEffect s t dst (wordLoaded s ea) s.cc (s.pc + 2#32)) ∧
  (∀ (s : State) (dst x : Nibble) (disp : Half), dst ≠ 0#4 →
    let ea := (if x = 0#4 then s.pc + 4#32 else s.reg x) + BitVec.ofInt 32 disp.toInt
    s.readable ea = true →
    Runs (exec (.load dst x disp) s) fun t => RegisterEffect s t dst (wordLoaded s ea) s.cc (s.pc + 4#32))

/-- LOADS and LOAD with `dst` = 0 jump through the word loaded: only pc changes; an odd word raises F_PC_ODD
(40_short_memory_reference.md R133, 41_memory_reference.md R153, 10_state.md R28; with a handler: log entry
16; what a device answers is free: log entry 14). -/
def Obligations.LoadsWithoutRegisterJump : Prop :=
  (∀ (s : State) (x : Nibble),
    let ea := if x = 0#4 then s.pc + 2#32 else s.reg x
    s.readable ea = true →
    ((wordLoaded s ea)[0] = false → Runs (exec (.loads 0#4 x) s) fun t => PcEffect s t (wordLoaded s ea)) ∧
    ((wordLoaded s ea)[0] = true → Raises s (exec (.loads 0#4 x) s) (.pcOdd (wordLoaded s ea)))) ∧
  (∀ (s : State) (x : Nibble) (disp : Half),
    let ea := (if x = 0#4 then s.pc + 4#32 else s.reg x) + BitVec.ofInt 32 disp.toInt
    s.readable ea = true →
    ((wordLoaded s ea)[0] = false → Runs (exec (.load 0#4 x disp) s) fun t => PcEffect s t (wordLoaded s ea)) ∧
    ((wordLoaded s ea)[0] = true → Raises s (exec (.load 0#4 x disp) s) (.pcOdd (wordLoaded s ea))))

/-- LOADSCC, LOADCC, TESTS and TEST: N and Z of the word, V and C by the open function of the word; a `dst` of 0
discards it and does not load pc (40_short_memory_reference.md R134, R140; 41_memory_reference.md R154, R160;
log entry 10; what a device answers is free: log entry 14). -/
def Obligations.LoadsWithCodesSetThem : Prop :=
  (∀ (s : State) (dst x : Nibble),
    let ea := if x = 0#4 then s.pc + 2#32 else s.reg x
    let v := wordLoaded s ea
    let cc := codesOf v (Config.ccLoadVC v).v (Config.ccLoadVC v).c
    s.readable ea = true →
    (Runs (exec (.loadscc dst x) s) fun t => RegisterEffect s t dst v cc (s.pc + 2#32)) ∧
    (Runs (exec (.tests x) s) fun t => RegisterEffect s t 0#4 v cc (s.pc + 2#32))) ∧
  (∀ (s : State) (dst x : Nibble) (disp : Half),
    let ea := (if x = 0#4 then s.pc + 4#32 else s.reg x) + BitVec.ofInt 32 disp.toInt
    let v := wordLoaded s ea
    let cc := codesOf v (Config.ccLoadVC v).v (Config.ccLoadVC v).c
    s.readable ea = true →
    (Runs (exec (.loadcc dst x disp) s) fun t => RegisterEffect s t dst v cc (s.pc + 4#32)) ∧
    (Runs (exec (.test x disp) s) fun t => RegisterEffect s t 0#4 v cc (s.pc + 4#32)))

/-- LOADL loads as LOADSCC does and holds a reservation of the aligned word, also where `dst` is 0
(40_short_memory_reference.md R136, 20_memory.md R73). V and C by the open function of the word: log entry 10;
what a device answers is free: log entry 14. -/
def Obligations.LoadlSetsTheReservation : Prop :=
  ∀ (s : State) (dst x : Nibble), x ≠ 0#4 → s.readable (s.reg x) = true →
    let v := wordLoaded s (s.reg x)
    Runs (exec (.loadl dst x) s) fun t =>
      t.resv = some (s.reg x &&& 0xFFFFFFFC#32) ∧ RegWritten s t dst v ∧
      t.cc = codesOf v (Config.ccLoadVC v).v (Config.ccLoadVC v).c ∧ t.pc = s.pc + 2#32 ∧ MemKept s t ∧
      SpecialKept s t ∧ PlatformKept s t

/-- STORES and STORE write the aligned word that holds the address, least significant byte lowest, and nothing
else; a `srcx` of 0 stores 0 (40_short_memory_reference.md R138, 41_memory_reference.md R150, R156, 20_memory.md
R61). That in a device region the device receives the word and memory keeps every byte is the model's choice: log
entry 14. -/
def Obligations.StoresWriteTheAlignedWord : Prop :=
  (∀ (s : State) (srcx x : Nibble), x ≠ 0#4 → s.writable (s.reg x) = true → Memory.wf s.mem = true →
    let v := if srcx = 0#4 then 0#32 else s.reg srcx
    let A := s.reg x &&& 0xFFFFFFFC#32
    Runs (exec (.stores srcx x) s) fun t =>
      if s.isDevice (s.reg x) = true then DeviceStoreEffect s t A v (s.pc + 2#32)
      else StoreEffect s t A v (s.pc + 2#32)) ∧
  (∀ (s : State) (srcx x : Nibble) (disp : Half), s.writable (eaLong s x disp) = true →
    Memory.wf s.mem = true →
    let v := if srcx = 0#4 then 0#32 else s.reg srcx
    let A := eaLong s x disp &&& 0xFFFFFFFC#32
    Runs (exec (.store srcx x disp) s) fun t =>
      if s.isDevice (eaLong s x disp) = true then DeviceStoreEffect s t A v (s.pc + 4#32)
      else StoreEffect s t A v (s.pc + 4#32)) ∧
  (∀ (s : State) (x : Nibble) (disp : Half),
    eaLong s x disp = (if x = 0#4 then s.pc + 4#32 else s.reg x) + BitVec.ofInt 32 disp.toInt)

/-- STOREC: with no reservation of the word it fails; with one, a free draw decides (log entry 12). A failed
STOREC stores nothing; both ways N, Z and C are cleared, V reports the outcome and the reservation is lost; a
store that memory does not admit raises F_BUS (40_short_memory_reference.md R137, 20_memory.md R74). The model's
choices beside the draw: a fault with a handler, log entry 16; a store to a device, log entry 14. -/
def Obligations.StorecReportsItsOutcome : Prop :=
  ∀ (s : State) (srcx x : Nibble), x ≠ 0#4 → Memory.wf s.mem = true →
    let A := s.reg x &&& 0xFFFFFFFC#32
    let v := if srcx = 0#4 then 0#32 else s.reg srcx
    let failed := Runs (exec (.storec srcx x) s) fun t =>
      PcEffect { s with resv := none, cc := codesOf 1#32 s.config.storecVFail false } t (s.pc + 2#32)
    let base : State := { s with resv := none, cc := codesOf 1#32 (!s.config.storecVFail) false }
    let stored := Runs (exec (.storec srcx x) s) fun t =>
      if s.isDevice (s.reg x) = true then DeviceStoreEffect base t A v (s.pc + 2#32)
      else StoreEffect base t A v (s.pc + 2#32)
    (s.resv ≠ some A → failed) ∧
    (s.resv = some A → s.writable (s.reg x) = true →
      if Config.storecDraw s.draws = true then stored else failed) ∧
    (s.resv = some A → s.writable (s.reg x) = false →
      if Config.storecDraw s.draws = true then Raises s (exec (.storec srcx x) s) (.bus A) else failed)

/-- A load from a word that is not readable, and a store to one that is not writable, raises F_BUS of the
aligned address (60_exceptions.md R302; with a handler: log entry 16). -/
def Obligations.UnmappedAccessRaisesBus : Prop :=
  (∀ (s : State) (r x : Nibble),
    let ea := if x = 0#4 then s.pc + 2#32 else s.reg x
    s.readable ea = false →
    Raises s (exec (.loads r x) s) (.bus (ea &&& 0xFFFFFFFC#32)) ∧
    Raises s (exec (.loadscc r x) s) (.bus (ea &&& 0xFFFFFFFC#32)) ∧
    Raises s (exec (.tests x) s) (.bus (ea &&& 0xFFFFFFFC#32)) ∧
    (x ≠ 0#4 → Raises s (exec (.loadl r x) s) (.bus (ea &&& 0xFFFFFFFC#32)))) ∧
  (∀ (s : State) (r x : Nibble) (disp : Half), s.readable (eaLong s x disp) = false →
    Raises s (exec (.load r x disp) s) (.bus (eaLong s x disp &&& 0xFFFFFFFC#32)) ∧
    Raises s (exec (.loadcc r x disp) s) (.bus (eaLong s x disp &&& 0xFFFFFFFC#32)) ∧
    Raises s (exec (.test x disp) s) (.bus (eaLong s x disp &&& 0xFFFFFFFC#32))) ∧
  (∀ (s : State) (r x : Nibble), x ≠ 0#4 → s.writable (s.reg x) = false →
    Raises s (exec (.stores r x) s) (.bus (s.reg x &&& 0xFFFFFFFC#32))) ∧
  (∀ (s : State) (r x : Nibble) (disp : Half), s.writable (eaLong s x disp) = false →
    Raises s (exec (.store r x disp) s) (.bus (eaLong s x disp &&& 0xFFFFFFFC#32)))

/-- A word that STORES or STORE put into memory is what a fetch of its halves reads and what each of the five
loads returns, in the state after the store and in any later state `u` in which the bytes of that word are still
the stored ones; a load with no destination register jumps to it or, by its codes, tests it (20_memory.md R62, R70,
R77). -/
def Obligations.StoreThenLoadReturnsTheWord : Prop :=
  ∀ (s : State) (srcx x : Nibble) (disp : Half), Memory.wf s.mem = true →
    let v := if srcx = 0#4 then 0#32 else s.reg srcx
    let codes := fun w : State => w.cc.n = v.msb ∧ w.cc.z = decide (v = 0#32)
    let holds := fun (t : State) (A : Word) =>
      ∀ u : State, u.config = s.config → (∀ a, a &&& 0xFFFFFFFC#32 = A → u.byteAt a = t.byteAt a) →
        (u.halfAt A = v.extractLsb' 0 16 ∧ u.halfAt (A + 2#32) = v.extractLsb' 16 16) ∧
        (∀ dst y : Nibble,
          let ea := if y = 0#4 then u.pc + 2#32 else u.reg y
          ea &&& 0xFFFFFFFC#32 = A → u.readable ea = true →
          (dst ≠ 0#4 → Runs (exec (.loads dst y) u) fun w => w.reg dst = v) ∧
          (v[0] = false → Runs (exec (.loads 0#4 y) u) fun w => w.pc = v) ∧
          (Runs (exec (.loadscc dst y) u) fun w => (dst ≠ 0#4 → w.reg dst = v) ∧ codes w) ∧
          (y ≠ 0#4 → Runs (exec (.loadl dst y) u) fun w => (dst ≠ 0#4 → w.reg dst = v) ∧ codes w)) ∧
        (∀ (dst y : Nibble) (disp' : Half), eaLong u y disp' &&& 0xFFFFFFFC#32 = A →
          u.readable (eaLong u y disp') = true →
          (dst ≠ 0#4 → Runs (exec (.load dst y disp') u) fun w => w.reg dst = v) ∧
          (v[0] = false → Runs (exec (.load 0#4 y disp') u) fun w => w.pc = v) ∧
          (Runs (exec (.loadcc dst y disp') u) fun w => (dst ≠ 0#4 → w.reg dst = v) ∧ codes w))
    (x ≠ 0#4 → s.writable (s.reg x) = true → s.isDevice (s.reg x) = false →
      Runs (exec (.stores srcx x) s) fun t => holds t (s.reg x &&& 0xFFFFFFFC#32)) ∧
    (s.writable (eaLong s x disp) = true → s.isDevice (eaLong s x disp) = false →
      Runs (exec (.store srcx x disp) s) fun t => holds t (eaLong s x disp &&& 0xFFFFFFFC#32))

/-! ## Jumps -/

/-- JSR, JSRS, JUMP and JUMPS: the target is read first, then the return address is saved (or, with `dst` = 0,
not), and pc is the target (40_short_memory_reference.md R135, R141; 41_memory_reference.md R155, R161). -/
def Obligations.SubroutineCallsSaveAndJump : Prop :=
  (∀ (s : State) (dst x : Nibble),
    let ea := if x = 0#4 then s.pc + 2#32 else s.reg x
    ea[0] = false →
    (Runs (exec (.jsrs dst x) s) fun t => RegisterEffect s t dst (s.pc + 2#32) s.cc ea) ∧
    (Runs (exec (.jumps x) s) fun t => PcEffect s t ea)) ∧
  (∀ (s : State) (dst x : Nibble) (disp : Half),
    let ea := (if x = 0#4 then s.pc + 4#32 else s.reg x) + BitVec.ofInt 32 disp.toInt
    ea[0] = false →
    (Runs (exec (.jsr dst x disp) s) fun t => RegisterEffect s t dst (s.pc + 4#32) s.cc ea) ∧
    (Runs (exec (.jump x disp) s) fun t => PcEffect s t ea))

/-- An odd value on its way to pc raises F_PC_ODD and nothing of the instruction happens (10_state.md R28,
60_exceptions.md R300, R303; with a handler: log entry 16): JSR, JSRS, JUMP, JUMPS, LIL and RTT. -/
def Obligations.OddTargetsRaisePcOdd : Prop :=
  (∀ (s : State) (dst x : Nibble),
    let ea := if x = 0#4 then s.pc + 2#32 else s.reg x
    ea[0] = true →
    Raises s (exec (.jsrs dst x) s) (.pcOdd ea) ∧ Raises s (exec (.jumps x) s) (.pcOdd ea)) ∧
  (∀ (s : State) (dst x : Nibble) (disp : Half), (eaLong s x disp)[0] = true →
    Raises s (exec (.jsr dst x disp) s) (.pcOdd (eaLong s x disp)) ∧
    Raises s (exec (.jump x disp) s) (.pcOdd (eaLong s x disp))) ∧
  (∀ (s : State) (k : BitVec 24), k[0] = true →
    Raises s (exec (.lil 0#4 k) s) (.pcOdd (BitVec.ofInt 32 k.toInt))) ∧
  (∀ s : State, s.tpc[0] = true → s.config.priv.cpuget.getLsbD s.level.toNat = false →
    s.config.priv.rtt.getLsbD s.level.toNat = false →
    Raises s (exec .rtt s) (.pcOdd s.tpc) ∧ Raises s (exec (.cpuget 0#4 1#4) s) (.pcOdd s.tpc))

/-- BTRUNC adds the low bits of the register, as halfwords, to the next instruction's address; only pc changes
(46_short_constant.md R222). -/
def Obligations.BtruncBranchesByTheRegister : Prop :=
  ∀ (s : State) (dst b : Nibble), dst ≠ 0#4 →
    Runs (exec (.btrunc dst b) s) fun t =>
      PcEffect s t (s.pc + 2#32 + BitVec.ofNat 32 (2 * ((s.reg dst).toNat % 2 ^ count16 b)))

/-! ## Shifts and bit tests -/

/-- MOVESL, ADDSL, SL and the BITTST that shifts left: the shift first, then the addition; V and C by the open
function of the operand, the count and the addend (43_shift.md R181, R184, R185, R189; log entry 10). -/
def Obligations.LeftShiftsShiftThenAdd : Prop :=
  (∀ (s : State) (dst s1 c : Nibble), s1 ≠ 0#4 →
    let v := s.reg s1
    let r := BitVec.ofNat 32 (v.toNat * 2 ^ count16 c)
    let open' := Config.ccShlVC v (count16 c) 0#32
    (Runs (exec (.movesl dst s1 c) s) fun t =>
      RegisterEffect s t dst r (codesOf r open'.v open'.c) (s.pc + 2#32)) ∧
    (Runs (exec (.bittstHigh s1 c) s) fun t =>
      RegisterEffect s t 0#4 r (codesOf r open'.v open'.c) (s.pc + 2#32))) ∧
  (∀ (s : State) (dst s1 c : Nibble), dst ≠ 0#4 →
    let v := s.reg dst
    let a := if s1 = 0#4 then 0#32 else s.reg s1
    let r := BitVec.ofNat 32 (v.toNat * 2 ^ count16 c + a.toNat)
    let open' := Config.ccShlVC v (count16 c) a
    Runs (exec (.addsl dst s1 c) s) fun t =>
      RegisterEffect s t dst r (codesOf r open'.v open'.c) (s.pc + 2#32)) ∧
  (∀ (s : State) (dst c : Nibble), dst ≠ 0#4 →
    let v := s.reg dst
    let r := BitVec.ofNat 32 (v.toNat * 2 ^ count16 c)
    let open' := Config.ccShlVC v (count16 c) 0#32
    Runs (exec (.sl dst c) s) fun t => RegisterEffect s t dst r (codesOf r open'.v open'.c) (s.pc + 2#32))

/-- ADDSR and ADDSRU: the addition first, exact to 33 bits where ADDSR_SUM is wide and wrapped where it is
narrow, then the shift; C is the last bit shifted out of the wrapped sum, V is open; a `dst` of 0 reads as 0
(43_shift.md R182, R183; log entries 1 and 10). -/
def Obligations.RightShiftsAddThenShift : Prop :=
  ∀ (s : State) (dst s1 c : Nibble),
    let d := if dst = 0#4 then 0#32 else s.reg dst
    let a := if s1 = 0#4 then 0#32 else s.reg s1
    let k := count16 c
    let last := (d + a).getLsbD (k - 1)
    (Runs (exec (.addsr dst s1 c) s) fun t =>
      let r : Word := match s.config.addsrSum with
        | .wide => ((d.signExtend 33 + a.signExtend 33).sshiftRight k).setWidth 32
        | .narrow => (d + a).sshiftRight k
      RegisterEffect s t dst r (codesOf r (Config.ccShrV (d + a) k .signed) last) (s.pc + 2#32)) ∧
    (Runs (exec (.addsru dst s1 c) s) fun t =>
      let r : Word := match s.config.addsrSum with
        | .wide => ((d.setWidth 33 + a.setWidth 33) >>> k).setWidth 32
        | .narrow => (d + a) >>> k
      RegisterEffect s t dst r (codesOf r (Config.ccShrV (d + a) k .unsigned) last) (s.pc + 2#32))

/-- SR and SRU shift the register right, arithmetic and logical, the same under both values of ADDSR_SUM; C is
the last bit shifted out; SRU clears N. BITTST of a low bit sets the codes SR would and writes no register
(43_shift.md R186 to R188; V is open, log entry 10). -/
def Obligations.SrSruAndLowBittstShiftRight : Prop :=
  ∀ (s : State) (dst c : Nibble),
    let d := if dst = 0#4 then 0#32 else s.reg dst
    let k := count16 c
    (Runs (exec (.sr dst c) s) fun t =>
      RegisterEffect s t dst (d.sshiftRight k)
        (codesOf (d.sshiftRight k) (Config.ccShrV d k .signed) (d.getLsbD (k - 1))) (s.pc + 2#32)) ∧
    (Runs (exec (.sru dst c) s) fun t =>
      RegisterEffect s t dst (d >>> k)
        { n := false, z := decide (d >>> k = 0#32), v := Config.ccShrV d k .unsigned, c := d.getLsbD (k - 1) }
        (s.pc + 2#32)) ∧
    (Runs (exec (.bittstLow dst c) s) fun t =>
      RegisterEffect s t 0#4 0#32
        (codesOf (d.sshiftRight k) (Config.ccShrV d k .signed) (d.getLsbD (k - 1))) (s.pc + 2#32))

/-- BITTST r,b for each bit leaves it in N for b = 16 to 31 and in C for b = 0 to 15, and writes only the codes;
BBS or BBR after it is taken exactly where the tested bit is 1, or 0 (43_shift.md R188 to R191,
40_short_memory_reference.md R142). -/
def Obligations.BittstThenBranchTestsTheBit : Prop :=
  ∀ (s : State) (r : Nibble) (b : BitVec 5) (disp : Byte), r ≠ 0#4 →
    let test : Instr :=
      if b = 31#5 then .bittst31 r
      else if 16#5 ≤ b then .bittstHigh r (BitVec.ofNat 4 (31 - b.toNat))
      else .bittstLow r (BitVec.ofNat 4 (b.toNat + 1))
    Runs (exec test s) fun t =>
      RegsKept s t ∧ t.pc = s.pc + 2#32 ∧ t.resv = s.resv ∧ MemKept s t ∧ SpecialKept s t ∧
      PlatformKept s t ∧ (if 16#5 ≤ b then t.cc.n else t.cc.c) = (s.reg r).getLsbD b.toNat ∧
      (Runs (exec (.bbs b disp) t) fun u =>
        PcEffect t u (if (s.reg r).getLsbD b.toNat then targetOf t.pc disp else t.pc + 2#32)) ∧
      (Runs (exec (.bbr b disp) t) fun u =>
        PcEffect t u (if (s.reg r).getLsbD b.toNat then t.pc + 2#32 else targetOf t.pc disp))

/-! ## Bytes, halfwords, bit fields, logic -/

/-- STUFFB and STUFFH, bit by bit: the field at the pointer's position takes the low bits of the source, every
other bit stays; no code is written (44_byte_halfword.md R200, R201, R204). -/
def Obligations.StuffReplacesTheField : Prop :=
  ∀ (s : State) (dst s1 s2 : Nibble), dst ≠ 0#4 →
    let v := if s1 = 0#4 then 0#32 else s.reg s1
    let p := if s2 = 0#4 then 0 else (s.reg s2).toNat
    let b := 8 * (p % 4)
    let h := 16 * (p / 2 % 2)
    (Runs (exec (.stuffb dst s1 s2) s) fun t =>
      RegisterEffect s t dst (t.reg dst) s.cc (s.pc + 2#32) ∧
      ∀ j, j < 32 → (t.reg dst).getLsbD j =
        if b ≤ j ∧ j < b + 8 then v.getLsbD (j - b) else (s.reg dst).getLsbD j) ∧
    (Runs (exec (.stuffh dst s1 s2) s) fun t =>
      RegisterEffect s t dst (t.reg dst) s.cc (s.pc + 2#32) ∧
      ∀ j, j < 32 → (t.reg dst).getLsbD j =
        if h ≤ j ∧ j < h + 16 then v.getLsbD (j - h) else (s.reg dst).getLsbD j)

/-- EXTB and EXTH: the field at the pointer's position, zero-extended; Z of it, V and C cleared, N bit 31 of the
result or the field's top bit as EXT_N says (44_byte_halfword.md R202, R203; log entry 1). -/
def Obligations.ExtractTakesTheField : Prop :=
  ∀ (s : State) (dst s1 s2 : Nibble), s1 ≠ 0#4 →
    let p := if s2 = 0#4 then 0 else (s.reg s2).toNat
    let b := BitVec.ofNat 32 ((s.reg s1).toNat / 2 ^ (8 * (p % 4)) % 2 ^ 8)
    let h := BitVec.ofNat 32 ((s.reg s1).toNat / 2 ^ (16 * (p / 2 % 2)) % 2 ^ 16)
    (Runs (exec (.extb dst s1 s2) s) fun t =>
      RegisterEffect s t dst b
        { n := (if s.config.extN = .msbOfField then b[7] else b[31]), z := decide (b = 0#32), v := false,
          c := false } (s.pc + 2#32)) ∧
    (Runs (exec (.exth dst s1 s2) s) fun t =>
      RegisterEffect s t dst h
        { n := (if s.config.extN = .msbOfField then h[15] else h[31]), z := decide (h = 0#32), v := false,
          c := false } (s.pc + 2#32))

/-- TRUNC keeps the low b bits and clears N, SXT extends their sign; V and C are open functions of the old value
and b (46_short_constant.md R220, R221; log entry 10). -/
def Obligations.TruncAndSxtKeepTheLowBits : Prop :=
  ∀ (s : State) (dst b : Nibble), dst ≠ 0#4 →
    let old := s.reg dst
    let k := count16 b
    let low := (old.extractLsb' 0 k).setWidth 32
    let sx := (old.extractLsb' 0 k).signExtend 32
    (Runs (exec (.trunc dst b) s) fun t =>
      RegisterEffect s t dst low
        { n := false, z := decide (low = 0#32), v := (Config.ccTruncVC old k).v, c := (Config.ccTruncVC old k).c }
        (s.pc + 2#32)) ∧
    (Runs (exec (.sxt dst b) s) fun t =>
      RegisterEffect s t dst sx (codesOf sx (Config.ccSxtVC old k).v (Config.ccSxtVC old k).c) (s.pc + 2#32))

/-- AND, OR, EQU and NOT: N and Z of the result, V and C cleared; EQU with a `src` of 0 complements, as NOT does
(47_two_register.md R230 to R232, R236). -/
def Obligations.LogicalInstructionsClearVAndC : Prop :=
  ∀ (s : State) (dst : Nibble), dst ≠ 0#4 →
    (∀ src : Nibble, src ≠ 0#4 →
      (Runs (exec (.and dst src) s) fun t =>
        RegisterEffect s t dst (s.reg dst &&& s.reg src) (codesOf (s.reg dst &&& s.reg src) false false)
          (s.pc + 2#32)) ∧
      (Runs (exec (.or dst src) s) fun t =>
        RegisterEffect s t dst (s.reg dst ||| s.reg src) (codesOf (s.reg dst ||| s.reg src) false false)
          (s.pc + 2#32))) ∧
    (∀ src : Nibble,
      Runs (exec (.equ dst src) s) fun t =>
        RegWritten s t dst (t.reg dst) ∧
        (∀ j, j < 32 → (t.reg dst).getLsbD j =
          ((s.reg dst).getLsbD j == (if src = 0#4 then false else (s.reg src).getLsbD j))) ∧
        t.cc = codesOf (t.reg dst) false false ∧ t.pc = s.pc + 2#32 ∧ t.resv = s.resv ∧ MemKept s t ∧
        SpecialKept s t ∧ PlatformKept s t) ∧
    (Runs (exec (.not dst) s) fun t =>
      RegisterEffect s t dst (~~~ s.reg dst) (codesOf (~~~ s.reg dst) false false) (s.pc + 2#32))

/-! ## Special registers, coprocessor, return from trap -/

/-- COGET and COSET with a coprocessor behind the index and the level allowed: the value and the four codes are
the coprocessor's (open: log entry 13), COSET writes the one entry and no code (48_special.md R247, R248). -/
def Obligations.CoprocessorAccessWhenPresent : Prop :=
  ∀ (s : State) (r k : Nibble), s.config.coMap.getLsbD k.toNat = true →
    (s.config.priv.coget.getLsbD s.level.toNat = false →
      Runs (exec (.coget r k) s) fun t =>
        RegisterEffect s t r (Config.coRead s.draws k s.co)
          (Config.ccCoget k (Config.coRead s.draws k s.co)) (s.pc + 2#32)) ∧
    (s.config.priv.coset.getLsbD s.level.toNat = false →
      Runs (exec (.coset r k) s) fun t =>
        t.coReg k = (if r = 0#4 then 0#32 else s.reg r) ∧ (∀ m, m ≠ k → t.coReg m = s.coReg m) ∧
        RegsKept s t ∧ t.cc = s.cc ∧ t.pc = s.pc + 2#32 ∧ t.resv = s.resv ∧ MemKept s t ∧
        t.level = s.level ∧ t.prior = s.prior ∧ t.bcd = s.bcd ∧ CpuKept s t ∧ PlatformKept s t)

/-- COGET and COSET raise F_COPROC of the index where no coprocessor stands behind it, in the base model for
every index; F_PRIV is checked first, for all five instructions that PRIV concerns. CPUGET with `dst` = 0 is
refused for every entry but tpc, CPUGET into a register and CPUSET for an entry the configuration does not
define (48_special.md R247 to R251; 60_exceptions.md R304, R306, R307, R311; log entries 15, 16 and 17). -/
def Obligations.SpecialAccessIsChecked : Prop :=
  (∀ (s : State) (r k : Nibble), s.config.coMap.getLsbD k.toNat = false →
    (s.config.priv.coget.getLsbD s.level.toNat = false → Raises s (exec (.coget r k) s) (.coproc k)) ∧
    (s.config.priv.coset.getLsbD s.level.toNat = false → Raises s (exec (.coset r k) s) (.coproc k))) ∧
  (∀ (s : State) (r k : Nibble),
    (s.config.priv.coget.getLsbD s.level.toNat = true →
      Raises s (exec (.coget r k) s) (.priv (3#4 ++ k ++ 1#4 ++ r))) ∧
    (s.config.priv.coset.getLsbD s.level.toNat = true →
      Raises s (exec (.coset r k) s) (.priv (2#4 ++ k ++ 1#4 ++ r))) ∧
    (s.config.priv.cpuget.getLsbD s.level.toNat = true →
      Raises s (exec (.cpuget r k) s) (.priv (1#4 ++ k ++ 1#4 ++ r))) ∧
    (s.config.priv.cpuset.getLsbD s.level.toNat = true →
      Raises s (exec (.cpuset r k) s) (.priv (0#4 ++ k ++ 1#4 ++ r)))) ∧
  (∀ s : State, (s.config.priv.cpuget.getLsbD s.level.toNat = true ∨
      s.config.priv.rtt.getLsbD s.level.toNat = true) →
    Raises s (exec .rtt s) (.priv 0x1110#16) ∧ Raises s (exec (.cpuget 0#4 1#4) s) (.priv 0x1110#16)) ∧
  (∀ (s : State) (r k : Nibble), k ≠ 1#4 →
    (s.config.priv.cpuget.getLsbD s.level.toNat = false →
      exec (.cpuget 0#4 k) s = .refused (.cpugetPc k)) ∧
    (s.config.cpuMap.getLsbD k.toNat = false →
      (r ≠ 0#4 → s.config.priv.cpuget.getLsbD s.level.toNat = false →
        exec (.cpuget r k) s = .refused (.cpuUnmapped k)) ∧
      (s.config.priv.cpuset.getLsbD s.level.toNat = false →
        exec (.cpuset r k) s = .refused (.cpuUnmapped k))))

/-- CPUGET and CPUSET of an entry other than the processor status word: the stored word, unchanged; tpc is entry
1 in every configuration (48_special.md R249, R250; 10_state.md R41, R43). That every other defined entry is plain
storage is the model's choice, log entry 9; that the status word is entry 0 is log entry 7. -/
def Obligations.CpuEntriesAreStoredUnchanged : Prop :=
  ∀ (s : State) (r k : Nibble), k ≠ 0#4 → (k = 1#4 ∨ s.config.cpuMap.getLsbD k.toNat = true) →
    (r ≠ 0#4 → s.config.priv.cpuget.getLsbD s.level.toNat = false →
      Runs (exec (.cpuget r k) s) fun t => RegisterEffect s t r (s.cpuReg k) s.cc (s.pc + 2#32)) ∧
    (s.config.priv.cpuset.getLsbD s.level.toNat = false →
      Runs (exec (.cpuset r k) s) fun t =>
        t.cpuReg k = (if r = 0#4 then 0#32 else s.reg r) ∧ (∀ m, m ≠ k → t.cpuReg m = s.cpuReg m) ∧
        RegsKept s t ∧ t.cc = s.cc ∧ t.pc = s.pc + 2#32 ∧ t.resv = s.resv ∧ MemKept s t ∧
        t.level = s.level ∧ t.prior = s.prior ∧ t.bcd = s.bcd ∧ CoKept s t ∧ PlatformKept s t)

/-- The processor status word, where the configuration defines cpu[0]: CPUSET writes level, prior, the BCD
carries and the four codes and nothing else; CPUGET reads them back from the same places, its other bits free
(10_state.md R42, R43; the layout is PRESUMED: log entries 7 and 8). -/
def Obligations.StatusWordHoldsLevelAndCodes : Prop :=
  (∀ (s : State) (r : Nibble), s.config.cpuMap[0] = true →
    s.config.priv.cpuset.getLsbD s.level.toNat = false →
    let v := if r = 0#4 then 0#32 else s.reg r
    Runs (exec (.cpuset r 0#4) s) fun t =>
      t.level = v.extractLsb' 28 4 ∧ t.prior = v.extractLsb' 24 4 ∧ t.bcd = v.extractLsb' 8 8 ∧
      t.cc = { n := v[3], z := v[2], v := v[1], c := v[0] } ∧ t.pc = s.pc + 2#32 ∧
      RegsKept s t ∧ t.resv = s.resv ∧ MemKept s t ∧ CpuKept s t ∧ CoKept s t ∧ PlatformKept s t) ∧
  (∀ (s : State) (r : Nibble), r ≠ 0#4 → s.config.cpuMap[0] = true →
    s.config.priv.cpuget.getLsbD s.level.toNat = false →
    Runs (exec (.cpuget r 0#4) s) fun t =>
      RegisterEffect s t r (t.reg r) s.cc (s.pc + 2#32) ∧
      (t.reg r).extractLsb' 28 4 = s.level ∧ (t.reg r).extractLsb' 24 4 = s.prior ∧
      (t.reg r).extractLsb' 8 8 = s.bcd ∧
      s.cc = { n := (t.reg r)[3], z := (t.reg r)[2], v := (t.reg r)[1], c := (t.reg r)[0] })

/-- RTT, under both its spellings: pc from tpc, level from prior, and nothing else; prior and tpc stay
(48_special.md R251, 60_exceptions.md R312). The premises ask both that CPUGET and that RTT be allowed: log entry
15. -/
def Obligations.RttRestoresPcAndLevel : Prop :=
  ∀ s : State, s.tpc[0] = false → s.config.priv.cpuget.getLsbD s.level.toNat = false →
    s.config.priv.rtt.getLsbD s.level.toNat = false →
    (Runs (exec .rtt s) fun t => PcEffect { s with level := s.prior } t s.tpc) ∧
    (Runs (exec (.cpuget 0#4 1#4) s) fun t => PcEffect { s with level := s.prior } t s.tpc)

/-! ## Branches -/

/-- BR, NOP and the branches on the codes, with their other names: pc is the target exactly where the condition
holds, else the next instruction's address, and nothing else changes (49_branch.md R265 to R267, R270 to R273,
R276 to R280, R283 to R287). -/
def Obligations.BranchesFollowTheirConditions : Prop :=
  ∀ (s : State) (disp : Byte),
    let goes := fun (i : Instr) (taken : Bool) =>
      Runs (exec i s) fun t => PcEffect s t (if taken then targetOf s.pc disp else s.pc + 2#32)
    goes (.br disp) true ∧ goes (.bns disp) s.cc.n ∧ goes (.bzs disp) s.cc.z ∧ goes (.bvs disp) s.cc.v ∧
    goes (.bcs disp) s.cc.c ∧ goes (.bleu disp) (!s.cc.c || s.cc.z) ∧ goes (.bnr disp) (!s.cc.n) ∧
    goes (.bzr disp) (!s.cc.z) ∧ goes (.bvr disp) (!s.cc.v) ∧ goes (.bcr disp) (!s.cc.c) ∧
    goes (.bgtu disp) (s.cc.c && !s.cc.z) ∧ goes (.bltu disp) (!s.cc.c) ∧ goes (.bne disp) (!s.cc.z) ∧
    goes (.bgeu disp) s.cc.c ∧ goes (.beq disp) s.cc.z ∧
    (Runs (exec .nop s) fun t => PcEffect s t (s.pc + 2#32))

/-- The four signed branches under both values of SIGNED_COND (49_branch.md R268, R274, R275, R281, R282), and
BBS and BBR by the number of the bit tested before them (43_shift.md R191). -/
def Obligations.SignedBranchesFollowTheSwitch : Prop :=
  ∀ (s : State) (disp : Byte),
    let goes := fun (i : Instr) (taken : Bool) =>
      Runs (exec i s) fun t => PcEffect s t (if taken then targetOf s.pc disp else s.pc + 2#32)
    (s.config.signedCond = .printed →
      goes (.blt disp) (s.cc.n == s.cc.v) ∧ goes (.ble disp) ((s.cc.n == s.cc.v) || s.cc.z) ∧
      goes (.bge disp) (s.cc.n != s.cc.v) ∧ goes (.bgt disp) ((s.cc.n != s.cc.v) && !s.cc.z)) ∧
    (s.config.signedCond = .conventional →
      goes (.blt disp) (s.cc.n != s.cc.v) ∧ goes (.ble disp) ((s.cc.n != s.cc.v) || s.cc.z) ∧
      goes (.bge disp) (s.cc.n == s.cc.v) ∧ goes (.bgt disp) ((s.cc.n == s.cc.v) && !s.cc.z)) ∧
    (∀ b : BitVec 5, 16 ≤ b.toNat → goes (.bbs b disp) s.cc.n ∧ goes (.bbr b disp) (!s.cc.n)) ∧
    (∀ b : BitVec 5, b.toNat < 16 → goes (.bbs b disp) s.cc.c ∧ goes (.bbr b disp) (!s.cc.c))

/-- CMP and then a branch: the table of 49_branch.md R288, both columns. `goes i taken` says where `i` leads
from the state after the CMP. -/
def Obligations.CompareThenBranchTable : Prop :=
  ∀ (s : State) (s1 s2 : Nibble) (disp : Byte), s2 ≠ 0#4 →
    let a := if s1 = 0#4 then 0#32 else s.reg s1
    let b := s.reg s2
    Runs (exec (.cmp s1 s2) s) fun t =>
      let goes := fun (i : Instr) (taken : Bool) =>
        Runs (exec i t) fun u => u.pc = if taken then targetOf t.pc disp else t.pc + 2#32
      goes (.beq disp) (decide (a = b)) ∧ goes (.bne disp) (decide (a ≠ b)) ∧
      goes (.bgeu disp) (decide (b.toNat ≤ a.toNat)) ∧ goes (.bltu disp) (decide (a.toNat < b.toNat)) ∧
      goes (.bgtu disp) (decide (b.toNat < a.toNat)) ∧ goes (.bleu disp) (decide (a.toNat ≤ b.toNat)) ∧
      goes (.bns disp) (a - b).msb ∧ goes (.bnr disp) (!(a - b).msb) ∧
      goes (.bvs disp) (outOfRange (a.toInt - b.toInt)) ∧ goes (.bvr disp) (!outOfRange (a.toInt - b.toInt)) ∧
      (s.config.signedCond = .printed →
        goes (.blt disp) (decide (b.toInt ≤ a.toInt)) ∧ goes (.bge disp) (decide (a.toInt < b.toInt)) ∧
        goes (.ble disp) (decide (b.toInt ≤ a.toInt)) ∧ goes (.bgt disp) (decide (a.toInt < b.toInt))) ∧
      (s.config.signedCond = .conventional →
        goes (.blt disp) (decide (a.toInt < b.toInt)) ∧ goes (.bge disp) (decide (b.toInt ≤ a.toInt)) ∧
        goes (.ble disp) (decide (a.toInt ≤ b.toInt)) ∧ goes (.bgt disp) (decide (b.toInt < a.toInt)))
end

