-- ==== Sys2Proof/Laws/Decode.lean ====
section
/-! SUPPORT. The fields of a first halfword that the encoder has put together, and halfwords read back from
bytes. -/

namespace Sys2Proof

@[simp] theorem opField_halfOf (f1 f2 op dst : Nibble) : opField (halfOf f1 f2 op dst) = op := by
  refine BitVec.eq_of_getLsbD_eq fun i hi => ?_
  simp only [opField, halfOf, BitVec.getLsbD_extractLsb', BitVec.getLsbD_append]
  interval_cases i <;> rfl

@[simp] theorem dstField_halfOf (f1 f2 op dst : Nibble) : dstField (halfOf f1 f2 op dst) = dst := by
  refine BitVec.eq_of_getLsbD_eq fun i hi => ?_
  simp only [dstField, halfOf, BitVec.getLsbD_extractLsb', BitVec.getLsbD_append]
  interval_cases i <;> rfl

@[simp] theorem f1Field_halfOf (f1 f2 op dst : Nibble) : f1Field (halfOf f1 f2 op dst) = f1 := by
  refine BitVec.eq_of_getLsbD_eq fun i hi => ?_
  simp only [f1Field, halfOf, BitVec.getLsbD_extractLsb', BitVec.getLsbD_append]
  interval_cases i <;> rfl

@[simp] theorem f2Field_halfOf (f1 f2 op dst : Nibble) : f2Field (halfOf f1 f2 op dst) = f2 := by
  refine BitVec.eq_of_getLsbD_eq fun i hi => ?_
  simp only [f2Field, halfOf, BitVec.getLsbD_extractLsb', BitVec.getLsbD_append]
  interval_cases i <;> rfl

@[simp] theorem opField_halfOfByte (c : Byte) (op dst : Nibble) : opField (halfOfByte c op dst) = op := by
  refine BitVec.eq_of_getLsbD_eq fun i hi => ?_
  simp only [opField, halfOfByte, BitVec.getLsbD_extractLsb', BitVec.getLsbD_append]
  interval_cases i <;> rfl

@[simp] theorem dstField_halfOfByte (c : Byte) (op dst : Nibble) : dstField (halfOfByte c op dst) = dst := by
  refine BitVec.eq_of_getLsbD_eq fun i hi => ?_
  simp only [dstField, halfOfByte, BitVec.getLsbD_extractLsb', BitVec.getLsbD_append]
  interval_cases i <;> rfl

@[simp] theorem constField_halfOfByte (c : Byte) (op dst : Nibble) :
    constField (halfOfByte c op dst) = c := by
  refine BitVec.eq_of_getLsbD_eq fun i hi => ?_
  simp only [constField, halfOfByte, BitVec.getLsbD_extractLsb', BitVec.getLsbD_append]
  interval_cases i <;> rfl

/-- A halfword is its four fields. -/
theorem halfOf_fields (I : Half) : halfOf (f1Field I) (f2Field I) (opField I) (dstField I) = I := by
  refine BitVec.eq_of_getLsbD_eq fun i hi => ?_
  simp only [halfOf, f1Field, f2Field, opField, dstField, BitVec.getLsbD_extractLsb', BitVec.getLsbD_append]
  interval_cases i <;> rfl

/-- A halfword is its constant and its two low fields. -/
theorem halfOfByte_fields (I : Half) : halfOfByte (constField I) (opField I) (dstField I) = I := by
  refine BitVec.eq_of_getLsbD_eq fun i hi => ?_
  simp only [halfOfByte, constField, opField, dstField, BitVec.getLsbD_extractLsb', BitVec.getLsbD_append]
  interval_cases i <;> rfl

/-- The two bytes of a halfword, put together again. -/
@[simp] theorem half_of_bytes (h : Half) : (h.extractLsb' 8 8 ++ h.extractLsb' 0 8 : Half) = h := by
  refine BitVec.eq_of_getLsbD_eq fun i hi => ?_
  simp only [BitVec.getLsbD_extractLsb', BitVec.getLsbD_append]
  interval_cases i <;> rfl

/-- LIL's constant, split by the encoder and put together by the decoder (30_encoding.md R94). -/
@[simp] theorem lilConst_join (c : BitVec 24) : (c.extractLsb' 8 16 ++ c.extractLsb' 0 8 : BitVec 24) = c := by
  refine BitVec.eq_of_getLsbD_eq fun i hi => ?_
  simp only [BitVec.getLsbD_extractLsb', BitVec.getLsbD_append]
  interval_cases i <;> rfl

/-- LIL's constant, put together by the decoder and split by the encoder. -/
@[simp] theorem lilConst_low (J : Half) (c : Byte) : (J ++ c : BitVec 24).extractLsb' 0 8 = c := by
  refine BitVec.eq_of_getLsbD_eq fun i hi => ?_
  simp only [BitVec.getLsbD_extractLsb', BitVec.getLsbD_append]
  interval_cases i <;> rfl

@[simp] theorem lilConst_high (J : Half) (c : Byte) : (J ++ c : BitVec 24).extractLsb' 8 16 = J := by
  refine BitVec.eq_of_getLsbD_eq fun i hi => ?_
  simp only [BitVec.getLsbD_extractLsb', BitVec.getLsbD_append]
  interval_cases i <;> rfl

/-- What the decoder answers is a row whose fields that must not be zero are not. -/
theorem decode_ok {I J : Half} {i : Instr} :
    decode I J = .ok i ↔ reservedOperand (decodeRow I J) = none ∧ decodeRow I J = i := by
  unfold decode
  split <;> simp_all

end Sys2Proof
end

