-- ==== Sys2Proof/Laws/State.lean ====
section
/-! SUPPORT. One lemma per field per update of the state, each true by rfl. -/

namespace Sys2Proof.Machine

/-! ### setReg -/

@[simp] theorem State.setReg_regs (s : State) (n : Nibble) (v : Word) : (s.setReg n v).regs = entrySet s.regs n v := rfl
@[simp] theorem State.setReg_pc (s : State) (n : Nibble) (v : Word) : (s.setReg n v).pc = s.pc := rfl
@[simp] theorem State.setReg_cc (s : State) (n : Nibble) (v : Word) : (s.setReg n v).cc = s.cc := rfl
@[simp] theorem State.setReg_level (s : State) (n : Nibble) (v : Word) : (s.setReg n v).level = s.level := rfl
@[simp] theorem State.setReg_prior (s : State) (n : Nibble) (v : Word) : (s.setReg n v).prior = s.prior := rfl
@[simp] theorem State.setReg_bcd (s : State) (n : Nibble) (v : Word) : (s.setReg n v).bcd = s.bcd := rfl
@[simp] theorem State.setReg_cpu (s : State) (n : Nibble) (v : Word) : (s.setReg n v).cpu = s.cpu := rfl
@[simp] theorem State.setReg_co (s : State) (n : Nibble) (v : Word) : (s.setReg n v).co = s.co := rfl
@[simp] theorem State.setReg_resv (s : State) (n : Nibble) (v : Word) : (s.setReg n v).resv = s.resv := rfl
@[simp] theorem State.setReg_mem (s : State) (n : Nibble) (v : Word) : (s.setReg n v).mem = s.mem := rfl
@[simp] theorem State.setReg_config (s : State) (n : Nibble) (v : Word) : (s.setReg n v).config = s.config := rfl
@[simp] theorem State.setReg_draws (s : State) (n : Nibble) (v : Word) : (s.setReg n v).draws = s.draws := rfl
@[simp] theorem State.setReg_deviceOut (s : State) (n : Nibble) (v : Word) : (s.setReg n v).deviceOut = s.deviceOut := rfl
@[simp] theorem State.cpuReg_setReg (s : State) (n : Nibble) (v : Word) (m : Nibble) : (s.setReg n v).cpuReg m = s.cpuReg m := rfl
@[simp] theorem State.coReg_setReg (s : State) (n : Nibble) (v : Word) (m : Nibble) : (s.setReg n v).coReg m = s.coReg m := rfl
@[simp] theorem State.byteAt_setReg (s : State) (n : Nibble) (v : Word) (q : Word) : (s.setReg n v).byteAt q = s.byteAt q := rfl

/-! ### setPc -/

@[simp] theorem State.setPc_regs (s : State) (v : Word) : (s.setPc v).regs = s.regs := rfl
@[simp] theorem State.setPc_pc (s : State) (v : Word) : (s.setPc v).pc = v := rfl
@[simp] theorem State.setPc_cc (s : State) (v : Word) : (s.setPc v).cc = s.cc := rfl
@[simp] theorem State.setPc_level (s : State) (v : Word) : (s.setPc v).level = s.level := rfl
@[simp] theorem State.setPc_prior (s : State) (v : Word) : (s.setPc v).prior = s.prior := rfl
@[simp] theorem State.setPc_bcd (s : State) (v : Word) : (s.setPc v).bcd = s.bcd := rfl
@[simp] theorem State.setPc_cpu (s : State) (v : Word) : (s.setPc v).cpu = s.cpu := rfl
@[simp] theorem State.setPc_co (s : State) (v : Word) : (s.setPc v).co = s.co := rfl
@[simp] theorem State.setPc_resv (s : State) (v : Word) : (s.setPc v).resv = s.resv := rfl
@[simp] theorem State.setPc_mem (s : State) (v : Word) : (s.setPc v).mem = s.mem := rfl
@[simp] theorem State.setPc_config (s : State) (v : Word) : (s.setPc v).config = s.config := rfl
@[simp] theorem State.setPc_draws (s : State) (v : Word) : (s.setPc v).draws = s.draws := rfl
@[simp] theorem State.setPc_deviceOut (s : State) (v : Word) : (s.setPc v).deviceOut = s.deviceOut := rfl
@[simp] theorem State.reg_setPc (s : State) (v : Word) (m : Nibble) : (s.setPc v).reg m = s.reg m := rfl
@[simp] theorem State.cpuReg_setPc (s : State) (v : Word) (m : Nibble) : (s.setPc v).cpuReg m = s.cpuReg m := rfl
@[simp] theorem State.coReg_setPc (s : State) (v : Word) (m : Nibble) : (s.setPc v).coReg m = s.coReg m := rfl
@[simp] theorem State.byteAt_setPc (s : State) (v : Word) (q : Word) : (s.setPc v).byteAt q = s.byteAt q := rfl

/-! ### setCc -/

@[simp] theorem State.setCc_regs (s : State) (f : Flags) : (s.setCc f).regs = s.regs := rfl
@[simp] theorem State.setCc_pc (s : State) (f : Flags) : (s.setCc f).pc = s.pc := rfl
@[simp] theorem State.setCc_cc (s : State) (f : Flags) : (s.setCc f).cc = f := rfl
@[simp] theorem State.setCc_level (s : State) (f : Flags) : (s.setCc f).level = s.level := rfl
@[simp] theorem State.setCc_prior (s : State) (f : Flags) : (s.setCc f).prior = s.prior := rfl
@[simp] theorem State.setCc_bcd (s : State) (f : Flags) : (s.setCc f).bcd = s.bcd := rfl
@[simp] theorem State.setCc_cpu (s : State) (f : Flags) : (s.setCc f).cpu = s.cpu := rfl
@[simp] theorem State.setCc_co (s : State) (f : Flags) : (s.setCc f).co = s.co := rfl
@[simp] theorem State.setCc_resv (s : State) (f : Flags) : (s.setCc f).resv = s.resv := rfl
@[simp] theorem State.setCc_mem (s : State) (f : Flags) : (s.setCc f).mem = s.mem := rfl
@[simp] theorem State.setCc_config (s : State) (f : Flags) : (s.setCc f).config = s.config := rfl
@[simp] theorem State.setCc_draws (s : State) (f : Flags) : (s.setCc f).draws = s.draws := rfl
@[simp] theorem State.setCc_deviceOut (s : State) (f : Flags) : (s.setCc f).deviceOut = s.deviceOut := rfl
@[simp] theorem State.reg_setCc (s : State) (f : Flags) (m : Nibble) : (s.setCc f).reg m = s.reg m := rfl
@[simp] theorem State.cpuReg_setCc (s : State) (f : Flags) (m : Nibble) : (s.setCc f).cpuReg m = s.cpuReg m := rfl
@[simp] theorem State.coReg_setCc (s : State) (f : Flags) (m : Nibble) : (s.setCc f).coReg m = s.coReg m := rfl
@[simp] theorem State.byteAt_setCc (s : State) (f : Flags) (q : Word) : (s.setCc f).byteAt q = s.byteAt q := rfl

/-! ### setResv -/

@[simp] theorem State.setResv_regs (s : State) (r : Option Word) : (s.setResv r).regs = s.regs := rfl
@[simp] theorem State.setResv_pc (s : State) (r : Option Word) : (s.setResv r).pc = s.pc := rfl
@[simp] theorem State.setResv_cc (s : State) (r : Option Word) : (s.setResv r).cc = s.cc := rfl
@[simp] theorem State.setResv_level (s : State) (r : Option Word) : (s.setResv r).level = s.level := rfl
@[simp] theorem State.setResv_prior (s : State) (r : Option Word) : (s.setResv r).prior = s.prior := rfl
@[simp] theorem State.setResv_bcd (s : State) (r : Option Word) : (s.setResv r).bcd = s.bcd := rfl
@[simp] theorem State.setResv_cpu (s : State) (r : Option Word) : (s.setResv r).cpu = s.cpu := rfl
@[simp] theorem State.setResv_co (s : State) (r : Option Word) : (s.setResv r).co = s.co := rfl
@[simp] theorem State.setResv_resv (s : State) (r : Option Word) : (s.setResv r).resv = r := rfl
@[simp] theorem State.setResv_mem (s : State) (r : Option Word) : (s.setResv r).mem = s.mem := rfl
@[simp] theorem State.setResv_config (s : State) (r : Option Word) : (s.setResv r).config = s.config := rfl
@[simp] theorem State.setResv_draws (s : State) (r : Option Word) : (s.setResv r).draws = s.draws := rfl
@[simp] theorem State.setResv_deviceOut (s : State) (r : Option Word) : (s.setResv r).deviceOut = s.deviceOut := rfl
@[simp] theorem State.reg_setResv (s : State) (r : Option Word) (m : Nibble) : (s.setResv r).reg m = s.reg m := rfl
@[simp] theorem State.cpuReg_setResv (s : State) (r : Option Word) (m : Nibble) : (s.setResv r).cpuReg m = s.cpuReg m := rfl
@[simp] theorem State.coReg_setResv (s : State) (r : Option Word) (m : Nibble) : (s.setResv r).coReg m = s.coReg m := rfl
@[simp] theorem State.byteAt_setResv (s : State) (r : Option Word) (q : Word) : (s.setResv r).byteAt q = s.byteAt q := rfl

/-! ### draw -/

@[simp] theorem State.draw_regs (s : State) : (s.draw).regs = s.regs := rfl
@[simp] theorem State.draw_pc (s : State) : (s.draw).pc = s.pc := rfl
@[simp] theorem State.draw_cc (s : State) : (s.draw).cc = s.cc := rfl
@[simp] theorem State.draw_level (s : State) : (s.draw).level = s.level := rfl
@[simp] theorem State.draw_prior (s : State) : (s.draw).prior = s.prior := rfl
@[simp] theorem State.draw_bcd (s : State) : (s.draw).bcd = s.bcd := rfl
@[simp] theorem State.draw_cpu (s : State) : (s.draw).cpu = s.cpu := rfl
@[simp] theorem State.draw_co (s : State) : (s.draw).co = s.co := rfl
@[simp] theorem State.draw_resv (s : State) : (s.draw).resv = s.resv := rfl
@[simp] theorem State.draw_mem (s : State) : (s.draw).mem = s.mem := rfl
@[simp] theorem State.draw_config (s : State) : (s.draw).config = s.config := rfl
@[simp] theorem State.draw_draws (s : State) : (s.draw).draws = s.draws + 1 := rfl
@[simp] theorem State.draw_deviceOut (s : State) : (s.draw).deviceOut = s.deviceOut := rfl
@[simp] theorem State.reg_draw (s : State) (m : Nibble) : (s.draw).reg m = s.reg m := rfl
@[simp] theorem State.cpuReg_draw (s : State) (m : Nibble) : (s.draw).cpuReg m = s.cpuReg m := rfl
@[simp] theorem State.coReg_draw (s : State) (m : Nibble) : (s.draw).coReg m = s.coReg m := rfl
@[simp] theorem State.byteAt_draw (s : State) (q : Word) : (s.draw).byteAt q = s.byteAt q := rfl

/-! ### setCpuReg -/

@[simp] theorem State.setCpuReg_regs (s : State) (k : Nibble) (v : Word) : (s.setCpuReg k v).regs = s.regs := rfl
@[simp] theorem State.setCpuReg_pc (s : State) (k : Nibble) (v : Word) : (s.setCpuReg k v).pc = s.pc := rfl
@[simp] theorem State.setCpuReg_cc (s : State) (k : Nibble) (v : Word) : (s.setCpuReg k v).cc = s.cc := rfl
@[simp] theorem State.setCpuReg_level (s : State) (k : Nibble) (v : Word) : (s.setCpuReg k v).level = s.level := rfl
@[simp] theorem State.setCpuReg_prior (s : State) (k : Nibble) (v : Word) : (s.setCpuReg k v).prior = s.prior := rfl
@[simp] theorem State.setCpuReg_bcd (s : State) (k : Nibble) (v : Word) : (s.setCpuReg k v).bcd = s.bcd := rfl
@[simp] theorem State.setCpuReg_cpu (s : State) (k : Nibble) (v : Word) : (s.setCpuReg k v).cpu = entrySet s.cpu k v := rfl
@[simp] theorem State.setCpuReg_co (s : State) (k : Nibble) (v : Word) : (s.setCpuReg k v).co = s.co := rfl
@[simp] theorem State.setCpuReg_resv (s : State) (k : Nibble) (v : Word) : (s.setCpuReg k v).resv = s.resv := rfl
@[simp] theorem State.setCpuReg_mem (s : State) (k : Nibble) (v : Word) : (s.setCpuReg k v).mem = s.mem := rfl
@[simp] theorem State.setCpuReg_config (s : State) (k : Nibble) (v : Word) : (s.setCpuReg k v).config = s.config := rfl
@[simp] theorem State.setCpuReg_draws (s : State) (k : Nibble) (v : Word) : (s.setCpuReg k v).draws = s.draws := rfl
@[simp] theorem State.setCpuReg_deviceOut (s : State) (k : Nibble) (v : Word) : (s.setCpuReg k v).deviceOut = s.deviceOut := rfl
@[simp] theorem State.reg_setCpuReg (s : State) (k : Nibble) (v : Word) (m : Nibble) : (s.setCpuReg k v).reg m = s.reg m := rfl
@[simp] theorem State.coReg_setCpuReg (s : State) (k : Nibble) (v : Word) (m : Nibble) : (s.setCpuReg k v).coReg m = s.coReg m := rfl
@[simp] theorem State.byteAt_setCpuReg (s : State) (k : Nibble) (v : Word) (q : Word) : (s.setCpuReg k v).byteAt q = s.byteAt q := rfl

/-! ### setCoReg -/

@[simp] theorem State.setCoReg_regs (s : State) (k : Nibble) (v : Word) : (s.setCoReg k v).regs = s.regs := rfl
@[simp] theorem State.setCoReg_pc (s : State) (k : Nibble) (v : Word) : (s.setCoReg k v).pc = s.pc := rfl
@[simp] theorem State.setCoReg_cc (s : State) (k : Nibble) (v : Word) : (s.setCoReg k v).cc = s.cc := rfl
@[simp] theorem State.setCoReg_level (s : State) (k : Nibble) (v : Word) : (s.setCoReg k v).level = s.level := rfl
@[simp] theorem State.setCoReg_prior (s : State) (k : Nibble) (v : Word) : (s.setCoReg k v).prior = s.prior := rfl
@[simp] theorem State.setCoReg_bcd (s : State) (k : Nibble) (v : Word) : (s.setCoReg k v).bcd = s.bcd := rfl
@[simp] theorem State.setCoReg_cpu (s : State) (k : Nibble) (v : Word) : (s.setCoReg k v).cpu = s.cpu := rfl
@[simp] theorem State.setCoReg_co (s : State) (k : Nibble) (v : Word) : (s.setCoReg k v).co = s.co.setIfInBounds k.toNat v := rfl
@[simp] theorem State.setCoReg_resv (s : State) (k : Nibble) (v : Word) : (s.setCoReg k v).resv = s.resv := rfl
@[simp] theorem State.setCoReg_mem (s : State) (k : Nibble) (v : Word) : (s.setCoReg k v).mem = s.mem := rfl
@[simp] theorem State.setCoReg_config (s : State) (k : Nibble) (v : Word) : (s.setCoReg k v).config = s.config := rfl
@[simp] theorem State.setCoReg_draws (s : State) (k : Nibble) (v : Word) : (s.setCoReg k v).draws = s.draws := rfl
@[simp] theorem State.setCoReg_deviceOut (s : State) (k : Nibble) (v : Word) : (s.setCoReg k v).deviceOut = s.deviceOut := rfl
@[simp] theorem State.reg_setCoReg (s : State) (k : Nibble) (v : Word) (m : Nibble) : (s.setCoReg k v).reg m = s.reg m := rfl
@[simp] theorem State.cpuReg_setCoReg (s : State) (k : Nibble) (v : Word) (m : Nibble) : (s.setCoReg k v).cpuReg m = s.cpuReg m := rfl
@[simp] theorem State.byteAt_setCoReg (s : State) (k : Nibble) (v : Word) (q : Word) : (s.setCoReg k v).byteAt q = s.byteAt q := rfl

/-! ### setPsw -/

@[simp] theorem State.setPsw_regs (s : State) (v : Word) : (s.setPsw v).regs = s.regs := rfl
@[simp] theorem State.setPsw_pc (s : State) (v : Word) : (s.setPsw v).pc = s.pc := rfl
@[simp] theorem State.setPsw_cc (s : State) (v : Word) : (s.setPsw v).cc = { n := v[3], z := v[2], v := v[1], c := v[0] } := rfl
@[simp] theorem State.setPsw_level (s : State) (v : Word) : (s.setPsw v).level = v.extractLsb' 28 4 := rfl
@[simp] theorem State.setPsw_prior (s : State) (v : Word) : (s.setPsw v).prior = v.extractLsb' 24 4 := rfl
@[simp] theorem State.setPsw_bcd (s : State) (v : Word) : (s.setPsw v).bcd = v.extractLsb' 8 8 := rfl
@[simp] theorem State.setPsw_cpu (s : State) (v : Word) : (s.setPsw v).cpu = s.cpu := rfl
@[simp] theorem State.setPsw_co (s : State) (v : Word) : (s.setPsw v).co = s.co := rfl
@[simp] theorem State.setPsw_resv (s : State) (v : Word) : (s.setPsw v).resv = s.resv := rfl
@[simp] theorem State.setPsw_mem (s : State) (v : Word) : (s.setPsw v).mem = s.mem := rfl
@[simp] theorem State.setPsw_config (s : State) (v : Word) : (s.setPsw v).config = s.config := rfl
@[simp] theorem State.setPsw_draws (s : State) (v : Word) : (s.setPsw v).draws = s.draws := rfl
@[simp] theorem State.setPsw_deviceOut (s : State) (v : Word) : (s.setPsw v).deviceOut = s.deviceOut := rfl
@[simp] theorem State.reg_setPsw (s : State) (v : Word) (m : Nibble) : (s.setPsw v).reg m = s.reg m := rfl
@[simp] theorem State.cpuReg_setPsw (s : State) (v : Word) (m : Nibble) : (s.setPsw v).cpuReg m = s.cpuReg m := rfl
@[simp] theorem State.coReg_setPsw (s : State) (v : Word) (m : Nibble) : (s.setPsw v).coReg m = s.coReg m := rfl
@[simp] theorem State.byteAt_setPsw (s : State) (v : Word) (q : Word) : (s.setPsw v).byteAt q = s.byteAt q := rfl

/-! ### setByte -/

@[simp] theorem State.setByte_regs (s : State) (a : Word) (v : Byte) : (s.setByte a v).regs = s.regs := rfl
@[simp] theorem State.setByte_pc (s : State) (a : Word) (v : Byte) : (s.setByte a v).pc = s.pc := rfl
@[simp] theorem State.setByte_cc (s : State) (a : Word) (v : Byte) : (s.setByte a v).cc = s.cc := rfl
@[simp] theorem State.setByte_level (s : State) (a : Word) (v : Byte) : (s.setByte a v).level = s.level := rfl
@[simp] theorem State.setByte_prior (s : State) (a : Word) (v : Byte) : (s.setByte a v).prior = s.prior := rfl
@[simp] theorem State.setByte_bcd (s : State) (a : Word) (v : Byte) : (s.setByte a v).bcd = s.bcd := rfl
@[simp] theorem State.setByte_cpu (s : State) (a : Word) (v : Byte) : (s.setByte a v).cpu = s.cpu := rfl
@[simp] theorem State.setByte_co (s : State) (a : Word) (v : Byte) : (s.setByte a v).co = s.co := rfl
@[simp] theorem State.setByte_resv (s : State) (a : Word) (v : Byte) : (s.setByte a v).resv = s.resv := rfl
@[simp] theorem State.setByte_mem (s : State) (a : Word) (v : Byte) : (s.setByte a v).mem = Memory.write s.mem a.toNat v := rfl
@[simp] theorem State.setByte_config (s : State) (a : Word) (v : Byte) : (s.setByte a v).config = s.config := rfl
@[simp] theorem State.setByte_draws (s : State) (a : Word) (v : Byte) : (s.setByte a v).draws = s.draws := rfl
@[simp] theorem State.setByte_deviceOut (s : State) (a : Word) (v : Byte) : (s.setByte a v).deviceOut = s.deviceOut := rfl
@[simp] theorem State.reg_setByte (s : State) (a : Word) (v : Byte) (m : Nibble) : (s.setByte a v).reg m = s.reg m := rfl
@[simp] theorem State.cpuReg_setByte (s : State) (a : Word) (v : Byte) (m : Nibble) : (s.setByte a v).cpuReg m = s.cpuReg m := rfl
@[simp] theorem State.coReg_setByte (s : State) (a : Word) (v : Byte) (m : Nibble) : (s.setByte a v).coReg m = s.coReg m := rfl

/-! ### setRamWord -/

@[simp] theorem State.setRamWord_regs (s : State) (a v : Word) : (s.setRamWord a v).regs = s.regs := rfl
@[simp] theorem State.setRamWord_pc (s : State) (a v : Word) : (s.setRamWord a v).pc = s.pc := rfl
@[simp] theorem State.setRamWord_cc (s : State) (a v : Word) : (s.setRamWord a v).cc = s.cc := rfl
@[simp] theorem State.setRamWord_level (s : State) (a v : Word) : (s.setRamWord a v).level = s.level := rfl
@[simp] theorem State.setRamWord_prior (s : State) (a v : Word) : (s.setRamWord a v).prior = s.prior := rfl
@[simp] theorem State.setRamWord_bcd (s : State) (a v : Word) : (s.setRamWord a v).bcd = s.bcd := rfl
@[simp] theorem State.setRamWord_cpu (s : State) (a v : Word) : (s.setRamWord a v).cpu = s.cpu := rfl
@[simp] theorem State.setRamWord_co (s : State) (a v : Word) : (s.setRamWord a v).co = s.co := rfl
@[simp] theorem State.setRamWord_resv (s : State) (a v : Word) : (s.setRamWord a v).resv = s.resv := rfl
@[simp] theorem State.setRamWord_config (s : State) (a v : Word) : (s.setRamWord a v).config = s.config := rfl
@[simp] theorem State.setRamWord_draws (s : State) (a v : Word) : (s.setRamWord a v).draws = s.draws := rfl
@[simp] theorem State.setRamWord_deviceOut (s : State) (a v : Word) : (s.setRamWord a v).deviceOut = s.deviceOut := rfl
@[simp] theorem State.reg_setRamWord (s : State) (a v : Word) (m : Nibble) : (s.setRamWord a v).reg m = s.reg m := rfl
@[simp] theorem State.cpuReg_setRamWord (s : State) (a v : Word) (m : Nibble) : (s.setRamWord a v).cpuReg m = s.cpuReg m := rfl
@[simp] theorem State.coReg_setRamWord (s : State) (a v : Word) (m : Nibble) : (s.setRamWord a v).coReg m = s.coReg m := rfl

end Sys2Proof.Machine
end

