-- ==== Sys2Proof/Laws/Memory.lean ====
section
/-! SUPPORT. The laws of memory: read after write, every operation keeps the canonical form, and canonical
memories that read alike are equal. -/

namespace Sys2Proof.Machine

/-! ## One byte -/

theorem Memory.wfFrom_cons {lo k : Nat} {b : Byte} {rest : Memory} :
    Memory.wfFrom lo ((k, b) :: rest) = true ↔
      lo ≤ k ∧ k < 2 ^ 32 ∧ b ≠ unlistedByte ∧ Memory.wfFrom (k + 1) rest = true := by
  simp [Memory.wfFrom, and_assoc]

theorem Memory.wfFrom_mono {lo lo' : Nat} {m : Memory} (h : lo' ≤ lo) (hm : Memory.wfFrom lo m = true) :
    Memory.wfFrom lo' m = true := by
  cases m with
  | nil => rfl
  | cons c rest =>
    obtain ⟨k, b⟩ := c
    rw [Memory.wfFrom_cons] at hm ⊢
    exact ⟨h.trans hm.1, hm.2⟩

theorem Memory.read_below {lo a : Nat} {m : Memory} (hm : Memory.wfFrom lo m = true) (ha : a < lo) :
    Memory.read m a = unlistedByte := by
  cases m with
  | nil => rfl
  | cons c rest =>
    obtain ⟨k, b⟩ := c
    have hk := (Memory.wfFrom_cons.1 hm).1
    simp [Memory.read, show ¬ k = a by omega, show a < k by omega]

theorem Memory.read_cons_above {k a : Nat} {b : Byte} {rest : Memory} (h : k < a) :
    Memory.read ((k, b) :: rest) a = Memory.read rest a := by
  simp [Memory.read, show ¬ k = a by omega, show ¬ a < k by omega]

/-- What one byte write does to every read. -/
theorem Memory.read_write {lo a a' : Nat} {m : Memory} {v : Byte} (hm : Memory.wfFrom lo m = true) :
    Memory.read (Memory.write m a v) a' = if a' = a then v else Memory.read m a' := by
  induction m generalizing lo with
  | nil =>
    by_cases hv : v = unlistedByte
    · simp [Memory.write, Memory.read, hv]
    · by_cases h : a' = a
      · simp [Memory.write, Memory.read, hv, h]
      · simp [Memory.write, Memory.read, hv, h, Ne.symm h]
  | cons c rest ih =>
    obtain ⟨k, b⟩ := c
    obtain ⟨-, -, -, hrest⟩ := Memory.wfFrom_cons.1 hm
    by_cases hka : k = a
    · subst hka
      by_cases hv : v = unlistedByte
      · by_cases h : a' = k
        · simp [Memory.write, hv, h, Memory.read_below hrest (Nat.lt_succ_self k)]
        · rcases Nat.lt_or_ge a' k with hlt | hge
          · simp [Memory.write, Memory.read, hv, h, Ne.symm h, hlt,
              Memory.read_below hrest (show a' < k + 1 by omega)]
          · simp [Memory.write, hv, h, Memory.read_cons_above (show k < a' by omega)]
      · by_cases h : a' = k
        · simp [Memory.write, Memory.read, hv, h]
        · simp [Memory.write, Memory.read, hv, h, Ne.symm h]
    · by_cases hak : a < k
      · by_cases hv : v = unlistedByte
        · by_cases h : a' = a
          · subst h
            simp [Memory.write, Memory.read, hka, hak, hv]
          · simp [Memory.write, hka, hak, hv, h]
        · by_cases h : a' = a
          · simp [Memory.write, Memory.read, hka, hak, hv, h]
          · rcases Nat.lt_or_ge a' a with hlt | hge
            · simp [Memory.write, Memory.read, hka, hak, hv, h, Ne.symm h, hlt, show ¬ k = a' by omega,
                show a' < k by omega]
            · simp [Memory.write, hka, hak, hv, h, Memory.read_cons_above (show a < a' by omega)]
      · have hrec := ih hrest
        rw [Memory.write, if_neg hka, if_neg hak]
        by_cases hk' : k = a'
        · subst hk'
          simp [Memory.read, hka]
        · by_cases hlt : a' < k
          · simp [Memory.read, hk', hlt, show ¬ a' = a by omega]
          · simpa [Memory.read, hk', hlt] using hrec

/-- One byte write keeps the canonical form. -/
theorem Memory.wfFrom_write {lo a : Nat} {m : Memory} {v : Byte} (hm : Memory.wfFrom lo m = true)
    (hlo : lo ≤ a) (ha : a < 2 ^ 32) : Memory.wfFrom lo (Memory.write m a v) = true := by
  induction m generalizing lo with
  | nil =>
    by_cases hv : v = unlistedByte
    · simp [Memory.write, hv, Memory.wfFrom]
    · simp only [Memory.write, hv, if_false, Memory.wfFrom_cons]
      exact ⟨hlo, ha, hv, rfl⟩
  | cons c rest ih =>
    obtain ⟨k, b⟩ := c
    obtain ⟨hk, hk32, hb, hrest⟩ := Memory.wfFrom_cons.1 hm
    by_cases hka : k = a
    · subst hka
      by_cases hv : v = unlistedByte
      · simpa [Memory.write, hv] using Memory.wfFrom_mono (show lo ≤ k + 1 by omega) hrest
      · simp only [Memory.write, hv, if_false, if_true, Memory.wfFrom_cons]
        exact ⟨hlo, ha, hv, hrest⟩
    · by_cases hak : a < k
      · by_cases hv : v = unlistedByte
        · simpa [Memory.write, hka, hak, hv] using hm
        · simp only [Memory.write, hka, hak, hv, if_false, if_true, Memory.wfFrom_cons]
          exact ⟨hlo, ha, hv, by omega, hk32, hb, hrest⟩
      · simp only [Memory.write, hka, hak, if_false, Memory.wfFrom_cons]
        exact ⟨hk, hk32, hb, ih hrest (by omega)⟩

/-- Canonical memories that read alike are equal. -/
theorem Memory.eq_of_read {lo : Nat} {m m' : Memory} (hm : Memory.wfFrom lo m = true)
    (hm' : Memory.wfFrom lo m' = true) (h : ∀ a, Memory.read m a = Memory.read m' a) : m = m' := by
  induction m generalizing lo m' with
  | nil =>
    cases m' with
    | nil => rfl
    | cons c rest =>
      obtain ⟨k, b⟩ := c
      have hb := (Memory.wfFrom_cons.1 hm').2.2.1
      exact absurd (by simpa [Memory.read] using (h k).symm) hb
  | cons c rest ih =>
    obtain ⟨k, b⟩ := c
    obtain ⟨-, -, hb, hrest⟩ := Memory.wfFrom_cons.1 hm
    cases m' with
    | nil => exact absurd (by simpa [Memory.read] using h k) hb
    | cons c' rest' =>
      obtain ⟨k', b'⟩ := c'
      obtain ⟨-, -, hb', hrest'⟩ := Memory.wfFrom_cons.1 hm'
      have hkk : k = k' := by
        rcases Nat.lt_trichotomy k k' with hlt | heq | hgt
        · exact absurd (by simpa [Memory.read, hlt, show ¬ k' = k by omega] using h k) hb
        · exact heq
        · exact absurd (by simpa [Memory.read, hgt, show ¬ k = k' by omega] using (h k').symm) hb'
      subst hkk
      have hbb : b = b' := by simpa [Memory.read] using h k
      subst hbb
      have : rest = rest' := by
        refine ih hrest hrest' fun a => ?_
        rcases Nat.lt_or_ge k a with hlt | hge
        · simpa [Memory.read_cons_above hlt] using h a
        · rw [Memory.read_below hrest (by omega), Memory.read_below hrest' (by omega)]
      rw [this]

/-! ## The state's memory -/

theorem Memory.wf_write {m : Memory} {a : Word} {v : Byte} (hm : Memory.wf m = true) :
    Memory.wf (Memory.write m a.toNat v) = true :=
  Memory.wfFrom_write hm (Nat.zero_le _) a.isLt

theorem State.wf_setByte {s : State} (a : Word) (v : Byte) (h : Memory.wf s.mem = true) :
    Memory.wf (s.setByte a v).mem = true :=
  Memory.wf_write h

theorem State.byteAt_setByte {s : State} (a : Word) (v : Byte) (h : Memory.wf s.mem = true) (q : Word) :
    (s.setByte a v).byteAt q = if q = a then v else s.byteAt q := by
  simp only [State.byteAt, State.setByte_mem]
  rw [Memory.read_write h]
  by_cases hq : q = a
  · simp [hq]
  · simp [hq, show ¬ q.toNat = a.toNat from fun e => hq (BitVec.eq_of_toNat_eq e)]

theorem State.wf_setRamWord {s : State} (A v : Word) (h : Memory.wf s.mem = true) :
    Memory.wf (s.setRamWord A v).mem = true :=
  State.wf_setByte _ _ (State.wf_setByte _ _ (State.wf_setByte _ _ (State.wf_setByte _ _ h)))

/-- What a word write does to every byte, at any address. -/
theorem State.byteAt_setRamWord {s : State} (A v : Word) (h : Memory.wf s.mem = true) (q : Word) :
    (s.setRamWord A v).byteAt q =
      if q = A then v.extractLsb' 0 8 else if q = A + 1#32 then v.extractLsb' 8 8
      else if q = A + 2#32 then v.extractLsb' 16 8 else if q = A + 3#32 then v.extractLsb' 24 8
      else s.byteAt q := by
  have h1 := State.wf_setByte A (v.extractLsb' 0 8) h
  have h2 := State.wf_setByte (A + 1#32) (v.extractLsb' 8 8) h1
  have h3 := State.wf_setByte (A + 2#32) (v.extractLsb' 16 8) h2
  rw [State.setRamWord, State.byteAt_setByte _ _ h3, State.byteAt_setByte _ _ h2,
    State.byteAt_setByte _ _ h1, State.byteAt_setByte _ _ h]
  have d1 : A ≠ A + 1#32 := by bv_omega
  have d2 : A ≠ A + 2#32 := by bv_omega
  have d3 : A ≠ A + 3#32 := by bv_omega
  have d4 : A + 1#32 ≠ A + 2#32 := by bv_omega
  have d5 : A + 1#32 ≠ A + 3#32 := by bv_omega
  have d6 : A + 2#32 ≠ A + 3#32 := by bv_omega
  by_cases q0 : q = A
  · subst q0; simp only [d1, d2, d3, if_true, if_false]
  by_cases q1 : q = A + 1#32
  · subst q1; simp only [d4, d5, d1.symm, if_true, if_false]
  by_cases q2 : q = A + 2#32
  · subst q2; simp only [d6, d2.symm, d4.symm, if_true, if_false]
  by_cases q3 : q = A + 3#32
  · subst q3; simp only [d3.symm, d5.symm, d6.symm, if_true, if_false]
  simp only [q0, q1, q2, q3, if_false]

/-- A word write says which bytes it writes and that it leaves the others (20_memory.md R61). -/
theorem State.memWritten_setRamWord {s : State} (A v : Word) (h : Memory.wf s.mem = true) :
    MemWritten s (s.setRamWord A v) A v := by
  have d1 : A + 1#32 ≠ A := by bv_omega
  have d2 : A + 2#32 ≠ A := by bv_omega
  have d3 : A + 3#32 ≠ A := by bv_omega
  have d4 : A + 2#32 ≠ A + 1#32 := by bv_omega
  have d5 : A + 3#32 ≠ A + 1#32 := by bv_omega
  have d6 : A + 3#32 ≠ A + 2#32 := by bv_omega
  refine ⟨?_, ?_, ?_, ?_, fun a h0 h1 h2 h3 => ?_⟩ <;>
    simp only [State.byteAt_setRamWord A v h, if_true, if_false, *]

/-- The four bytes of a word, put together again. -/
theorem word_of_bytes (v : Word) :
    (v.extractLsb' 24 8 ++ v.extractLsb' 16 8 ++ v.extractLsb' 8 8 ++ v.extractLsb' 0 8 : Word) = v := by
  refine BitVec.eq_of_getLsbD_eq fun i hi => ?_
  simp only [BitVec.getLsbD_append, BitVec.getLsbD_extractLsb']
  interval_cases i <;> rfl

/-- Memory read after write (20_memory.md R70). -/
theorem State.ramWord_setRamWord {s : State} (A v : Word) (h : Memory.wf s.mem = true) :
    (s.setRamWord A v).ramWord A = v := by
  obtain ⟨h0, h1, h2, h3, -⟩ := State.memWritten_setRamWord (s := s) A v h
  rw [State.ramWord, h0, h1, h2, h3, word_of_bytes]

end Sys2Proof.Machine
end

