-- ==== Sys2Proof/Laws/Ops.lean ====
section
/-! SUPPORT. One lemma per shared operation that says once everything it can do. -/

namespace Sys2Proof.Machine

/-! ## Register files -/

theorem nibble_pred_lt {k : Nibble} (hk : k ≠ 0#4) : k.toNat - 1 < 15 := by
  have := k.isLt
  have h0 : k.toNat ≠ 0 := fun e => hk (BitVec.eq_of_toNat_eq e)
  omega

theorem nibble_pred_ne {k m : Nibble} (hk : k ≠ 0#4) (hm : m ≠ 0#4) (h : m ≠ k) :
    k.toNat - 1 ≠ m.toNat - 1 := by
  have hk0 : k.toNat ≠ 0 := fun e => hk (BitVec.eq_of_toNat_eq e)
  have hm0 : m.toNat ≠ 0 := fun e => hm (BitVec.eq_of_toNat_eq e)
  have hne : m.toNat ≠ k.toNat := fun e => h (BitVec.eq_of_toNat_eq e)
  omega

theorem entryGet_zero (f : Vector Word 15) : entryGet f 0#4 = 0#32 := by simp [entryGet]

theorem entryGet_entrySet_same (f : Vector Word 15) {k : Nibble} (hk : k ≠ 0#4) (v : Word) :
    entryGet (entrySet f k v) k = v := by
  have := nibble_pred_lt hk
  simp only [entryGet, entrySet, if_neg hk, Vector.getElem?_setIfInBounds, this, if_true]
  rfl

theorem entryGet_entrySet_other (f : Vector Word 15) {k m : Nibble} (h : m ≠ k) (v : Word) :
    entryGet (entrySet f k v) m = entryGet f m := by
  by_cases hm : m = 0#4
  · simp [entryGet, hm]
  · by_cases hk : k = 0#4
    · simp [entrySet, hk]
    · simp only [entryGet, entrySet, if_neg hk, if_neg hm, Vector.getElem?_setIfInBounds,
        if_neg (nibble_pred_ne hk hm h)]

/-- What a register write does to every register. -/
theorem State.reg_setReg (s : State) (n : Nibble) (v : Word) (m : Nibble) :
    (s.setReg n v).reg m = if m = n ∧ n ≠ 0#4 then v else s.reg m := by
  by_cases h : m = n
  · subst h
    by_cases h0 : m = 0#4
    · simp [State.reg, h0, entryGet_zero]
    · simp only [State.reg, State.setReg_regs, entryGet_entrySet_same _ h0, h0, and_true, ne_eq,
        not_false_eq_true, if_true]
  · simp only [State.reg, State.setReg_regs, entryGet_entrySet_other _ h, h, false_and, if_false]

@[simp] theorem State.setReg_zero (s : State) (v : Word) : s.setReg 0#4 v = s := by
  simp [State.setReg, entrySet]

/-- A register write is the effect RegWritten says. -/
theorem State.regWritten_setReg (s : State) (n : Nibble) (v : Word) : RegWritten s (s.setReg n v) n v := by
  refine ⟨fun h => ?_, fun m _ hm => ?_⟩
  · simp [State.reg_setReg, h]
  · simp [State.reg_setReg, hm]

theorem State.cpuReg_setCpuReg (s : State) (n : Nibble) (v : Word) (m : Nibble) :
    (s.setCpuReg n v).cpuReg m = if m = n ∧ n ≠ 0#4 then v else s.cpuReg m := by
  by_cases h : m = n
  · subst h
    by_cases h0 : m = 0#4
    · simp [State.cpuReg, h0, entryGet_zero]
    · simp only [State.cpuReg, State.setCpuReg_cpu, entryGet_entrySet_same _ h0, h0, and_true, ne_eq,
        not_false_eq_true, if_true]
  · simp only [State.cpuReg, State.setCpuReg_cpu, entryGet_entrySet_other _ h, h, false_and, if_false]

theorem State.coReg_setCoReg (s : State) (n : Nibble) (v : Word) (m : Nibble) :
    (s.setCoReg n v).coReg m = if m = n then v else s.coReg m := by
  have hn : n.toNat < 16 := n.isLt
  by_cases h : m = n
  · subst h
    simp only [State.coReg, State.setCoReg_co, Vector.getElem?_setIfInBounds, hn, if_true]
    rfl
  · have hne : n.toNat ≠ m.toNat := fun e => h (BitVec.eq_of_toNat_eq e.symm)
    simp only [State.coReg, State.setCoReg_co, Vector.getElem?_setIfInBounds, if_neg hne, h, if_false]

/-! ## Reads that may draw -/

/-- A word read changes nothing but the count of draws. -/
theorem State.afterRead_cases (s : State) (ea : Word) : s.afterRead ea = s ∨ s.afterRead ea = s.draw := by
  unfold State.afterRead
  split
  · exact .inr rfl
  · exact .inl rfl

/-- A cpu[ ] read changes nothing but the count of draws. -/
theorem State.afterCpuRead_cases (s : State) (k : Nibble) :
    s.afterCpuRead k = s ∨ s.afterCpuRead k = s.draw := by
  unfold State.afterCpuRead
  split
  · exact .inr rfl
  · exact .inl rfl

/-! ## Faults and traps -/

/-- A fault with no handler is terminal. -/
theorem raise_terminal {s : State} {f : Fault} (h : trapVector s.config.traps f = none) :
    raise s f = .fault f := by
  simp [raise, h]

/-- A fault with a handler takes the trap. -/
theorem raise_handled {s : State} {f : Fault} {handler : Word}
    (h : trapVector s.config.traps f = some handler) (he : handler[0] = false) :
    raise s f = .next (takeTrap s f handler) := by
  simp [raise, h, he]

/-- Raising a fault answers a next state only by taking the trap. -/
theorem raise_next {s t : State} {f : Fault} (h : raise s f = .next t) :
    ∃ handler, trapVector s.config.traps f = some handler ∧ handler[0] = false ∧
      t = takeTrap s f handler := by
  unfold raise at h
  split at h
  · cases h
  · next handler hv =>
    split at h
    · cases h
    · next he => exact ⟨handler, hv, by simpa using he, by cases h; rfl⟩

/-- Raising a fault never refuses. -/
theorem raise_ne_refused {s : State} {f : Fault} {r : Refusal} : raise s f ≠ .refused r := by
  unfold raise
  split
  · simp
  · split <;> simp

/-- What taking a trap leaves, but for the cpu[ ] entries (60_exceptions.md R305). -/
theorem takeTrap_fields (s : State) (f : Fault) (handler : Word) :
    let t := takeTrap s f handler
    t.pc = handler ∧ t.prior = s.level ∧ t.level = 0#4 ∧ t.resv = none ∧
    t.regs = s.regs ∧ t.cc = s.cc ∧ t.bcd = s.bcd ∧ t.co = s.co ∧ t.mem = s.mem ∧ t.config = s.config ∧
    t.draws = s.draws ∧ t.deviceOut = s.deviceOut := by
  cases f <;> exact ⟨rfl, rfl, rfl, rfl, rfl, rfl, rfl, rfl, rfl, rfl, rfl, rfl⟩

/-- The cpu[ ] file a trap leaves: tpc, and TMA for a bus fault. -/
theorem takeTrap_cpu (s : State) (f : Fault) (handler : Word) :
    (takeTrap s f handler).cpu = match f with
      | .bus addr => entrySet (entrySet s.cpu 1#4 s.pc) 2#4 addr
      | _ => entrySet s.cpu 1#4 s.pc := by
  cases f <;> rfl

theorem takeTrap_tpc (s : State) (f : Fault) (handler : Word) : (takeTrap s f handler).tpc = s.pc := by
  have h12 : (1#4 : Nibble) ≠ 2#4 := by decide
  have h10 : (1#4 : Nibble) ≠ 0#4 := by decide
  rw [State.tpc, State.cpuReg, takeTrap_cpu]
  cases f <;> simp only [entryGet_entrySet_other _ h12, entryGet_entrySet_same _ h10]

theorem takeTrap_tma (s : State) (addr handler : Word) :
    (takeTrap s (.bus addr) handler).cpuReg 2#4 = addr := by
  rw [State.cpuReg, takeTrap_cpu]
  exact entryGet_entrySet_same _ (by decide) _

theorem takeTrap_cpu_other (s : State) (f : Fault) (handler : Word) {k : Nibble} (h1 : k ≠ 1#4)
    (h2 : k ≠ 2#4 ∨ ∀ addr, f ≠ .bus addr) : (takeTrap s f handler).cpuReg k = s.cpuReg k := by
  rw [State.cpuReg, takeTrap_cpu]
  cases f with
  | bus addr =>
    have hk : k ≠ 2#4 := h2.resolve_right fun h => h addr rfl
    simp only [entryGet_entrySet_other _ hk, entryGet_entrySet_other _ h1, State.cpuReg]
  | _ => simp only [entryGet_entrySet_other _ h1, State.cpuReg]

/-- A jump to an even target is taken. -/
theorem jump_even {s s' : State} {target : Word} (h : target[0] = false) :
    jump s s' target = .next (s'.setPc target) := by
  simp [jump, h]

/-- A jump to an odd target raises F_PC_ODD. -/
theorem jump_odd {s s' : State} {target : Word} (h : target[0] = true) :
    jump s s' target = raise s (.pcOdd target) := by
  simp [jump, h]

/-- What a jump can do. -/
theorem jump_next {s s' t : State} {target : Word} (h : jump s s' target = .next t) :
    (target[0] = false ∧ t = s'.setPc target) ∨
    (target[0] = true ∧ raise s (.pcOdd target) = .next t) := by
  unfold jump at h
  split at h
  · next ht => exact .inr ⟨ht, h⟩
  · next ht => exact .inl ⟨by simpa using ht, by cases h; rfl⟩

/-! ## Shapes of a meaning -/

/-- ADJUST's entries 8 to 15 are defined in every configuration. -/
@[simp] theorem adjDefined_high {cfg : Config} {src : Nibble} (h : 8#4 ≤ src) : adjDefined cfg src = true := by
  simp [adjDefined, h]

theorem requireNz_ne {m : String} {f : Field} {n : Nibble} {k : Result} (h : n ≠ 0#4) :
    requireNz m f n k = k := by
  simp [requireNz, h]

theorem requireNz_zero {m : String} {f : Field} {k : Result} :
    requireNz m f 0#4 k = .refused (.reservedOperand m f) := by
  simp [requireNz]

/-- A checked field answers a next state only where it is not zero. -/
theorem requireNz_next {m : String} {f : Field} {n : Nibble} {k : Result} {t : State}
    (h : requireNz m f n k = .next t) : n ≠ 0#4 ∧ k = .next t := by
  unfold requireNz at h
  split at h
  · cases h
  · next hn => exact ⟨hn, h⟩

theorem loadThen_readable {s : State} {ea : Word} {k : Word → State → Result} (h : s.readable ea = true) :
    loadThen s ea k = k (s.readWord ea) (s.afterRead ea) := by
  simp [loadThen, h]

theorem loadThen_unreadable {s : State} {ea : Word} {k : Word → State → Result}
    (h : s.readable ea = false) : loadThen s ea k = raise s (.bus (wordAlign ea)) := by
  simp [loadThen, h]

/-- What a load can do. -/
theorem loadThen_next {s t : State} {ea : Word} {k : Word → State → Result} (h : loadThen s ea k = .next t) :
    (s.readable ea = true ∧ k (s.readWord ea) (s.afterRead ea) = .next t) ∨
    (s.readable ea = false ∧ raise s (.bus (wordAlign ea)) = .next t) := by
  unfold loadThen at h
  split at h
  · next hr => exact .inl ⟨hr, h⟩
  · next hr => exact .inr ⟨by simpa using hr, h⟩

/-- What a store can do. -/
theorem storeThen_next {s t : State} {len ea v : Word} (h : storeThen s len ea v = .next t) :
    (s.writable ea = true ∧ t = (s.writeWord ea v).setPc (s.pc + len)) ∨
    (s.writable ea = false ∧ raise s (.bus (wordAlign ea)) = .next t) := by
  unfold storeThen at h
  split at h
  · next hr => exact .inl ⟨hr, by cases h; rfl⟩
  · next hr => exact .inr ⟨by simpa using hr, h⟩

/-- What a word write does: in a device region the device receives the word, else memory does. -/
theorem State.writeWord_cases (s : State) (ea v : Word) :
    (s.isDevice ea = true ∧
      s.writeWord ea v = { s with deviceOut := (wordAlign ea, v) :: s.deviceOut }) ∨
    (s.isDevice ea = false ∧ s.writeWord ea v = s.setRamWord (wordAlign ea) v) := by
  unfold State.writeWord
  cases hd : s.isDevice ea <;> simp

/-- The effect of writing a register, from any state that differs from `s` in the count of draws only. -/
theorem registerEffect_of {s s' : State} (h : s' = s ∨ s' = s.draw) (dst : Nibble) (v : Word) (pc : Word) :
    RegisterEffect s ((s'.setReg dst v).setPc pc) dst v s.cc pc := by
  rcases h with rfl | rfl <;>
    exact ⟨State.regWritten_setReg _ dst v, rfl, rfl, rfl, fun _ => rfl,
      ⟨rfl, rfl, rfl, fun _ => rfl, fun _ => rfl⟩, rfl, rfl⟩

/-- The same, with the condition codes. -/
theorem registerCcEffect_of {s s' : State} (h : s' = s ∨ s' = s.draw) (dst : Nibble) (v : Word)
    (cc : Flags) (pc : Word) : RegisterEffect s (((s'.setReg dst v).setCc cc).setPc pc) dst v cc pc := by
  rcases h with rfl | rfl <;>
    exact ⟨State.regWritten_setReg _ dst v, rfl, rfl, rfl, fun _ => rfl,
      ⟨rfl, rfl, rfl, fun _ => rfl, fun _ => rfl⟩, rfl, rfl⟩

theorem afterRead_pc (s : State) (ea : Word) : (s.afterRead ea).pc = s.pc := by
  rcases s.afterRead_cases ea with h | h <;> simp [h]

theorem afterCpuRead_pc (s : State) (k : Nibble) : (s.afterCpuRead k).pc = s.pc := by
  rcases s.afterCpuRead_cases k with h | h <;> simp [h]

/-- Writing a register and going on is the register effect. -/
theorem finishReg_runs (s : State) (len : Word) (dst : Nibble) (v : Word) :
    Runs (finishReg s len dst v) (fun t => RegisterEffect s t dst v s.cc (s.pc + len)) :=
  ⟨_, rfl, registerEffect_of (.inl rfl) dst v _⟩

/-- Writing a register and the condition codes and going on is the register effect with those codes. -/
theorem finishRegCc_runs (s : State) (len : Word) (dst : Nibble) (v : Word) (cc : Flags) :
    Runs (finishRegCc s len dst v cc) (fun t => RegisterEffect s t dst v cc (s.pc + len)) :=
  ⟨_, rfl, registerCcEffect_of (.inl rfl) dst v cc _⟩

/-- What writing a register or pc can do: a register is written where the field names one; else pc takes an even
value, and an odd one is raised. -/
theorem finishRegOrPc_next {s t : State} {len : Word} {dst : Nibble} {v : Word}
    (h : finishRegOrPc s len dst v = .next t) :
    (dst ≠ 0#4 ∧ t = (s.setReg dst v).setPc (s.pc + len)) ∨
    (dst = 0#4 ∧ v[0] = false ∧ t = s.setPc v) ∨
    (dst = 0#4 ∧ v[0] = true ∧ raise s (.pcOdd v) = .next t) := by
  unfold finishRegOrPc at h
  split at h
  · next hd =>
    rcases jump_next h with ⟨hv, ht⟩ | ⟨hv, ht⟩
    · exact .inr (.inl ⟨hd, hv, ht⟩)
    · exact .inr (.inr ⟨hd, hv, ht⟩)
  · next hd => exact .inl ⟨hd, by cases h; rfl⟩

/-- What saving the return address and jumping can do. -/
theorem linkAndJump_next {s t : State} {len : Word} {dst : Nibble} {target : Word}
    (h : linkAndJump s len dst target = .next t) :
    (target[0] = false ∧ t = (s.setReg dst (s.pc + len)).setPc target) ∨
    (target[0] = true ∧ raise s (.pcOdd target) = .next t) :=
  jump_next h

/-- What a return from trap can do. -/
theorem returnFromTrap_next {s t : State} (h : returnFromTrap s = .next t) :
    (s.tpc[0] = false ∧ t = { s with level := s.prior, pc := s.tpc }) ∨
    (s.tpc[0] = true ∧ raise s (.pcOdd s.tpc) = .next t) :=
  jump_next h

/-! ## The step -/

/-- A step is the meaning of what it fetched, or the fault of the fetch. -/
theorem step_next {s t : State} (h : step s = .next t) :
    (∃ i, fetch s = .ok i ∧ exec i s = .next t) ∨ (∃ f, fetch s = .fault f ∧ raise s f = .next t) := by
  unfold step runFetched at h
  split at h
  · next i hi => exact .inl ⟨i, hi, h⟩
  · next f hf => exact .inr ⟨f, hf, h⟩
  · cases h

end Sys2Proof.Machine
end

