-- ==== Sys2Proof/Laws/PerInstr.lean ====
section
/-! SUPPORT. Families of statements, one lemma per instruction. -/

namespace Sys2Proof.Laws

/-- The words of an instruction are the words of the machine instructions it stands for, one after another:
a derived name never changes the encoding (30_encoding.md R117, R118, R121). -/
def Spelling.Statement (i : Instr) : Prop := (expansion i).flatMap encode = encode i

theorem Spelling.move (dst x : Nibble) : Spelling.Statement (.move dst x) := rfl

theorem Spelling.movecc (dst x : Nibble) : Spelling.Statement (.movecc dst x) := rfl

theorem Spelling.loads (dst x : Nibble) : Spelling.Statement (.loads dst x) := rfl

theorem Spelling.loadscc (dst x : Nibble) : Spelling.Statement (.loadscc dst x) := rfl

theorem Spelling.jsrs (dst x : Nibble) : Spelling.Statement (.jsrs dst x) := rfl

theorem Spelling.stores (srcx x : Nibble) : Spelling.Statement (.stores srcx x) := rfl

theorem Spelling.loadl (dst x : Nibble) : Spelling.Statement (.loadl dst x) := rfl

theorem Spelling.storec (srcx x : Nibble) : Spelling.Statement (.storec srcx x) := rfl

theorem Spelling.lea (dst x : Nibble) (disp : Half) : Spelling.Statement (.lea dst x disp) := rfl

theorem Spelling.leacc (dst x : Nibble) (disp : Half) : Spelling.Statement (.leacc dst x disp) := rfl

theorem Spelling.load (dst x : Nibble) (disp : Half) : Spelling.Statement (.load dst x disp) := rfl

theorem Spelling.loadcc (dst x : Nibble) (disp : Half) : Spelling.Statement (.loadcc dst x disp) := rfl

theorem Spelling.jsr (dst x : Nibble) (disp : Half) : Spelling.Statement (.jsr dst x disp) := rfl

theorem Spelling.store (srcx x : Nibble) (disp : Half) : Spelling.Statement (.store srcx x disp) := rfl

theorem Spelling.lil (dst : Nibble) (const : BitVec 24) : Spelling.Statement (.lil dst const) := rfl

theorem Spelling.lis (dst : Nibble) (const : Byte) : Spelling.Statement (.lis dst const) := rfl

theorem Spelling.oris (dst : Nibble) (const : Byte) : Spelling.Statement (.oris dst const) := rfl

theorem Spelling.movesl (dst s1 s : Nibble) : Spelling.Statement (.movesl dst s1 s) := rfl

theorem Spelling.addsl (dst s1 s : Nibble) : Spelling.Statement (.addsl dst s1 s) := rfl

theorem Spelling.addsr (dst s1 s : Nibble) : Spelling.Statement (.addsr dst s1 s) := rfl

theorem Spelling.addsru (dst s1 s : Nibble) : Spelling.Statement (.addsru dst s1 s) := rfl

theorem Spelling.stuffb (dst s1 s2 : Nibble) : Spelling.Statement (.stuffb dst s1 s2) := rfl

theorem Spelling.stuffh (dst s1 s2 : Nibble) : Spelling.Statement (.stuffh dst s1 s2) := rfl

theorem Spelling.extb (dst s1 s2 : Nibble) : Spelling.Statement (.extb dst s1 s2) := rfl

theorem Spelling.exth (dst s1 s2 : Nibble) : Spelling.Statement (.exth dst s1 s2) := rfl

theorem Spelling.add (dst s1 s2 : Nibble) : Spelling.Statement (.add dst s1 s2) := rfl

theorem Spelling.sub (dst s1 s2 : Nibble) : Spelling.Statement (.sub dst s1 s2) := rfl

theorem Spelling.trunc (dst b : Nibble) : Spelling.Statement (.trunc dst b) := rfl

theorem Spelling.sxt (dst b : Nibble) : Spelling.Statement (.sxt dst b) := rfl

theorem Spelling.btrunc (dst b : Nibble) : Spelling.Statement (.btrunc dst b) := rfl

theorem Spelling.addsi (dst c : Nibble) : Spelling.Statement (.addsi dst c) := rfl

theorem Spelling.and (dst src : Nibble) : Spelling.Statement (.and dst src) := rfl

theorem Spelling.or (dst src : Nibble) : Spelling.Statement (.or dst src) := rfl

theorem Spelling.equ (dst src : Nibble) : Spelling.Statement (.equ dst src) := rfl

theorem Spelling.addc (dst src : Nibble) : Spelling.Statement (.addc dst src) := rfl

theorem Spelling.subb (dst src : Nibble) : Spelling.Statement (.subb dst src) := rfl

theorem Spelling.adjust (dst src : Nibble) : Spelling.Statement (.adjust dst src) := rfl

theorem Spelling.plus (dst src : Nibble) : Spelling.Statement (.plus dst src) := rfl

theorem Spelling.coget (dst src : Nibble) : Spelling.Statement (.coget dst src) := rfl

theorem Spelling.coset (srcx src : Nibble) : Spelling.Statement (.coset srcx src) := rfl

theorem Spelling.cpuget (dst src : Nibble) : Spelling.Statement (.cpuget dst src) := rfl

theorem Spelling.cpuset (srcx src : Nibble) : Spelling.Statement (.cpuset srcx src) := rfl

theorem Spelling.br (disp : Byte) : Spelling.Statement (.br disp) := rfl

theorem Spelling.bns (disp : Byte) : Spelling.Statement (.bns disp) := rfl

theorem Spelling.bzs (disp : Byte) : Spelling.Statement (.bzs disp) := rfl

theorem Spelling.bvs (disp : Byte) : Spelling.Statement (.bvs disp) := rfl

theorem Spelling.bcs (disp : Byte) : Spelling.Statement (.bcs disp) := rfl

theorem Spelling.blt (disp : Byte) : Spelling.Statement (.blt disp) := rfl

theorem Spelling.ble (disp : Byte) : Spelling.Statement (.ble disp) := rfl

theorem Spelling.bleu (disp : Byte) : Spelling.Statement (.bleu disp) := rfl

theorem Spelling.bnr (disp : Byte) : Spelling.Statement (.bnr disp) := rfl

theorem Spelling.bzr (disp : Byte) : Spelling.Statement (.bzr disp) := rfl

theorem Spelling.bvr (disp : Byte) : Spelling.Statement (.bvr disp) := rfl

theorem Spelling.bcr (disp : Byte) : Spelling.Statement (.bcr disp) := rfl

theorem Spelling.bge (disp : Byte) : Spelling.Statement (.bge disp) := rfl

theorem Spelling.bgt (disp : Byte) : Spelling.Statement (.bgt disp) := rfl

theorem Spelling.bgtu (disp : Byte) : Spelling.Statement (.bgtu disp) := rfl

theorem Spelling.unassignedMem1 (dst x : Nibble) : Spelling.Statement (.unassignedMem1 dst x) := rfl

theorem Spelling.unassignedMem0 (dst x : Nibble) : Spelling.Statement (.unassignedMem0 dst x) := rfl

theorem Spelling.unassignedTwoReg (dst src : Nibble) : Spelling.Statement (.unassignedTwoReg dst src) := rfl

theorem Spelling.unassignedBranch (disp : Byte) : Spelling.Statement (.unassignedBranch disp) := rfl

theorem Spelling.testr (x : Nibble) : Spelling.Statement (.testr x) := rfl

theorem Spelling.tests (x : Nibble) : Spelling.Statement (.tests x) := rfl

theorem Spelling.jumps (x : Nibble) : Spelling.Statement (.jumps x) := rfl

theorem Spelling.bittst31 (x : Nibble) : Spelling.Statement (.bittst31 x) := rfl

theorem Spelling.addi (dst x : Nibble) (disp : Half) : Spelling.Statement (.addi dst x disp) := rfl

theorem Spelling.cmpi (x : Nibble) (c : Half) : Spelling.Statement (.cmpi x c) := rfl

theorem Spelling.test (x : Nibble) (disp : Half) : Spelling.Statement (.test x disp) := rfl

theorem Spelling.jump (x : Nibble) (disp : Half) : Spelling.Statement (.jump x disp) := rfl

theorem Spelling.clr (dst : Nibble) : Spelling.Statement (.clr dst) := rfl

theorem Spelling.sl (dst s : Nibble) : Spelling.Statement (.sl dst s) := rfl

theorem Spelling.sr (dst s : Nibble) : Spelling.Statement (.sr dst s) := rfl

theorem Spelling.sru (dst s : Nibble) : Spelling.Statement (.sru dst s) := rfl

theorem Spelling.bittstLow (r s : Nibble) : Spelling.Statement (.bittstLow r s) := rfl

theorem Spelling.bittstHigh (r s : Nibble) : Spelling.Statement (.bittstHigh r s) := rfl

theorem Spelling.neg (dst s2 : Nibble) : Spelling.Statement (.neg dst s2) := rfl

theorem Spelling.cmp (s1 s2 : Nibble) : Spelling.Statement (.cmp s1 s2) := rfl

theorem Spelling.not (dst : Nibble) : Spelling.Statement (.not dst) := rfl

theorem Spelling.rol (dst : Nibble) : Spelling.Statement (.rol dst) := rfl

theorem Spelling.rtt : Spelling.Statement .rtt := rfl

theorem Spelling.bltu (disp : Byte) : Spelling.Statement (.bltu disp) := rfl

theorem Spelling.bne (disp : Byte) : Spelling.Statement (.bne disp) := rfl

theorem Spelling.bgeu (disp : Byte) : Spelling.Statement (.bgeu disp) := rfl

theorem Spelling.beq (disp : Byte) : Spelling.Statement (.beq disp) := rfl

theorem Spelling.nop : Spelling.Statement .nop := rfl

theorem Spelling.liw (dst : Nibble) (const : Word) : Spelling.Statement (.liw dst const) := by
  have low : (const.extractLsb' 8 24).extractLsb' 0 8 = const.extractLsb' 8 8 := by
    refine BitVec.eq_of_getLsbD_eq fun i hi => ?_
    simp only [BitVec.getLsbD_extractLsb']
    interval_cases i <;> rfl
  have high : (const.extractLsb' 8 24).extractLsb' 8 16 = const.extractLsb' 16 16 := by
    refine BitVec.eq_of_getLsbD_eq fun i hi => ?_
    simp only [BitVec.getLsbD_extractLsb']
    interval_cases i <;> rfl
  show [halfOfByte ((const.extractLsb' 8 24).extractLsb' 0 8) 14#4 dst, (const.extractLsb' 8 24).extractLsb' 8 16,
      halfOfByte (const.extractLsb' 0 8) 12#4 dst] =
    [halfOfByte (const.extractLsb' 8 8) 14#4 dst, const.extractLsb' 16 16,
      halfOfByte (const.extractLsb' 0 8) 12#4 dst]
  rw [low, high]

theorem Spelling.bbs (bit : BitVec 5) (disp : Byte) : Spelling.Statement (.bbs bit disp) := by
  show encode (if 16#5 ≤ bit then .bns disp else .bcs disp) ++ [] =
    [halfOfByte disp 0#4 (if 16#5 ≤ bit then 1#4 else 4#4)]
  split <;> rfl

theorem Spelling.bbr (bit : BitVec 5) (disp : Byte) : Spelling.Statement (.bbr bit disp) := by
  show encode (if 16#5 ≤ bit then .bnr disp else .bcr disp) ++ [] =
    [halfOfByte disp 0#4 (if 16#5 ≤ bit then 9#4 else 12#4)]
  split <;> rfl

end Sys2Proof.Laws
end

