-- ==== Sys2Proof/Tests/Slice0.lean ====
section
/-! SUPPORT. The model's own tests. Words are written out from the encoding tables of 30_encoding.md and the
examples of 40 to 49; expected results are those of the rules' examples and of 95_test_vectors.md (its vector
numbers stand in the comments). Then a witness for every statement that has hypotheses. -/

namespace Sys2Proof.Tests
open Sys2Proof.Machine

/-! ## Helpers -/

/-- The next state of an outcome, if it is one. -/
def nextOf (r : Result) : Option State :=
  match r with
  | .next t => some t
  | _ => none

/-- What `f` sees of the next state. -/
def sees {α : Type} (r : Result) (f : State → α) : Option α := (nextOf r).map f

/-- Whether the outcome is a next state. -/
def runs (r : Result) : Bool := (nextOf r).isSome

/-- An instruction about to run at 0x1000 with x[3], x[4], x[5] given; N = 1, Z = 0, V = 1, C = 0. -/
def start (r3 r4 r5 : Word) : State :=
  { State.reset with
    regs := #v[0, 0, r3, r4, r5, 0, 0, 0, 0, 0, 0, 0, 0, 0, 0]
    pc := 0x1000#32
    cc := { n := true, z := false, v := true, c := false } }

/-- Condition codes as N Z V C. -/
def code (n z v c : Bool) : Flags := { n := n, z := z, v := v, c := c }

/-- The codes of `start`. -/
def kept : Flags := code true false true false

/-- `start` with other codes. -/
def coded (n z v c : Bool) : State := (start 0#32 0#32 0#32).setCc (code n z v c)

def regCcPc (n : Nibble) (t : State) : Word × Flags × Word := (t.reg n, t.cc, t.pc)
def regNz (n : Nibble) (t : State) : Word × Bool × Bool := (t.reg n, t.cc.n, t.cc.z)
def regNzc (n : Nibble) (t : State) : Word × Bool × Bool × Bool := (t.reg n, t.cc.n, t.cc.z, t.cc.c)

/-- `s` with another memory map, another trap table, a coprocessor behind every index. -/
def mapped (s : State) (m : List Region) : State := { s with config := { s.config with memMap := m } }
def trapping (s : State) (t : TrapVectors) : State := { s with config := { s.config with traps := t } }
def withCo (s : State) : State := { s with config := { s.config with coMap := 0xFFFF#16 } }
def conventional (s : State) : State := { s with config := { s.config with signedCond := .conventional } }
def narrow (s : State) : State := { s with config := { s.config with addsrSum := .narrow } }
def adjusting (s : State) (m : Byte) : State := { s with config := { s.config with adjMap := m } }
def forbidding (s : State) (p : PrivMasks) : State := { s with config := { s.config with priv := p } }

/-- Every privileged instruction forbidden at level 0. -/
def allForbidden : PrivMasks := { coget := 1, coset := 1, cpuget := 1, cpuset := 1, rtt := 1 }

/-- One region of a kind, admitting every access. -/
def oneRegion (base size : Nat) (kind : RegionKind) : List Region :=
  [{ base := base, size := size, kind := kind, readable := true, writable := true, executable := true }]

/-! ## Well-formed terms -/

theorem test_wellFormed_refuses_memory_forms :
    (([.move 0#4 1#4, .stores 1#4 0#4, .loadl 1#4 0#4, .storec 1#4 0#4, .lea 0#4 1#4 8#16] : List Instr).all
      fun i => !i.wellFormed) = true := by decide

theorem test_wellFormed_refuses_immediates_and_shifts :
    (([.lis 0#4 5#8, .oris 0#4 5#8, .clr 0#4, .liw 0#4 5#32, .movesl 1#4 0#4 1#4, .addsl 0#4 1#4 1#4, .sl 0#4 1#4,
      .bittstHigh 0#4 1#4, .bittstHigh 1#4 0#4] : List Instr).all fun i => !i.wellFormed) = true := by decide

theorem test_wellFormed_refuses_fields_and_sums :
    (([.stuffb 0#4 1#4 1#4, .stuffh 0#4 1#4 1#4, .extb 1#4 0#4 1#4, .exth 1#4 0#4 1#4, .add 1#4 0#4 1#4,
      .add 1#4 1#4 0#4, .sub 1#4 1#4 0#4, .neg 1#4 0#4, .cmp 1#4 0#4] : List Instr).all
      fun i => !i.wellFormed) = true := by decide

theorem test_wellFormed_refuses_register_forms :
    (([.trunc 0#4 1#4, .sxt 0#4 1#4, .btrunc 0#4 1#4, .addsi 0#4 1#4, .and 0#4 1#4, .and 1#4 0#4, .or 0#4 1#4,
      .or 1#4 0#4, .equ 0#4 1#4, .not 0#4, .adjust 0#4 1#4, .plus 0#4 1#4] : List Instr).all
      fun i => !i.wellFormed) = true := by decide

theorem test_wellFormed_accepts :
    (([.move 1#4 0#4, .loads 0#4 0#4, .stores 0#4 1#4, .equ 1#4 0#4, .addc 0#4 0#4, .sub 0#4 0#4 1#4, .adjust 1#4 0#4,
      .coset 0#4 0#4, .bittstHigh 1#4 15#4, .bittstLow 0#4 0#4] : List Instr).all (·.wellFormed)) = true := by decide

/-! ## Decoding: the words of the rules' examples -/

theorem test_decode_short_memory :
    (([(0xF4F3, .move 3#4 4#4), (0xE6F5, .movecc 5#4 6#4), (0xD4F3, .loads 3#4 4#4), (0xC4F3, .loadscc 3#4 4#4),
      (0xB5F1, .jsrs 1#4 5#4), (0xA4F3, .stores 3#4 4#4), (0x94F3, .loadl 3#4 4#4),
      (0x84F3, .storec 3#4 4#4)] : List (Nat × Instr)).all fun p => decodeTableWord 16 p.1 == some p.2) = true := by
  decide

/-- The second halfword is the high half of the table's number. -/
theorem test_decode_long_memory :
    (([(0x000872F3, .lea 3#4 2#4 8#16), (0xFFFF63F3, .leacc 3#4 3#4 0xFFFF#16), (0x000452F3, .load 3#4 2#4 4#16),
      (0x000442F3, .loadcc 3#4 2#4 4#16), (0x00FC30F1, .jsr 1#4 0#4 0xFC#16),
      (0x000422F3, .store 3#4 2#4 4#16)] : List (Nat × Instr)).all
      fun p => decodeTableWord 32 p.1 == some p.2) = true := by
  decide

/-- The bytes E3 56 34 12 are LIL R3,#123456 (42_immediate.md R170). -/
theorem test_decode_immediate :
    decodeBytes [0xE3#8, 0x56#8, 0x34#8, 0x12#8] = .ok (.lil 3#4 0x123456#24) [] ∧
    decodeTableWord 32 0x123456E3 = some (.lil 3#4 0x123456#24) ∧
    decodeTableWord 16 0x05D3 = some (.lis 3#4 5#8) ∧ decodeTableWord 16 0x78C3 = some (.oris 3#4 0x78#8) := by
  decide

theorem test_decode_shift_and_fields :
    (([(0x42B3, .movesl 3#4 4#4 2#4), (0x32A3, .addsl 3#4 3#4 2#4), (0x4193, .addsr 3#4 4#4 1#4),
      (0x4183, .addsru 3#4 4#4 1#4), (0x4573, .stuffb 3#4 4#4 5#4), (0x4563, .stuffh 3#4 4#4 5#4),
      (0x4553, .extb 3#4 4#4 5#4), (0x4543, .exth 3#4 4#4 5#4), (0x4533, .add 3#4 4#4 5#4),
      (0x4523, .sub 3#4 4#4 5#4)] : List (Nat × Instr)).all fun p => decodeTableWord 16 p.1 == some p.2) = true := by
  decide

theorem test_decode_register_formats :
    (([(0xF813, .trunc 3#4 8#4), (0xE813, .sxt 3#4 8#4), (0xD213, .btrunc 3#4 2#4), (0xCF13, .addsi 3#4 15#4),
      (0xB413, .and 3#4 4#4), (0xA413, .or 3#4 4#4), (0x9413, .equ 3#4 4#4), (0x8413, .unassignedTwoReg 3#4 4#4),
      (0x7413, .addc 3#4 4#4), (0x6413, .subb 3#4 4#4), (0x5A13, .adjust 3#4 10#4), (0x4413, .plus 3#4 4#4),
      (0x3113, .coget 3#4 1#4), (0x2113, .coset 3#4 1#4), (0x1113, .cpuget 3#4 1#4),
      (0x0113, .cpuset 3#4 1#4)] : List (Nat × Instr)).all fun p => decodeTableWord 16 p.1 == some p.2) = true := by
  decide

theorem test_decode_branches :
    (([(0x0300, .br 3#8), (0x0301, .bns 3#8), (0x0302, .bzs 3#8), (0x0303, .bvs 3#8), (0x0304, .bcs 3#8),
      (0x0305, .blt 3#8), (0x0306, .ble 3#8), (0x0307, .bleu 3#8), (0x0308, .unassignedBranch 3#8),
      (0x0309, .bnr 3#8), (0x030A, .bzr 3#8), (0x030B, .bvr 3#8), (0x030C, .bcr 3#8), (0x030D, .bge 3#8),
      (0x030E, .bgt 3#8), (0x030F, .bgtu 3#8)] : List (Nat × Instr)).all
      fun p => decodeTableWord 16 p.1 == some p.2) = true := by
  decide

/-- Vectors B26 and B27: four bytes (R92). -/
theorem test_decode_unassigned_memory :
    decodeBytes [0xF3#8, 0x12#8, 0#8, 0#8] = .ok (.unassignedMem1 3#4 2#4) [] ∧
    decodeBytes [0xF3#8, 0x02#8, 0#8, 0#8] = .ok (.unassignedMem0 3#4 2#4) [] ∧
    encode (.unassignedMem1 3#4 2#4) = [0x12F3#16, 0#16] ∧ encode (.unassignedMem0 3#4 2#4) = [0x02F3#16, 0#16] := by
  decide

/-- Vectors A3, A22, E4, Y10, K4: a zero in an (nz) field. -/
theorem test_decode_refuses_reserved_operands :
    decode 0xF4F0#16 0#16 = .reserved "MOVE" .dst ∧ decode 0xA0F3#16 0#16 = .reserved "STORES" .x ∧
    decode 0x01B3#16 0#16 = .reserved "MOVESL" .s1 ∧ decode 0x4033#16 0#16 = .reserved "ADD" .s2 ∧
    decode 0xB013#16 0#16 = .reserved "AND" .src := by decide

/-- The derived names' words, from the examples of their rules; each decodes to its base instruction. -/
theorem test_derived_words :
    (([(.testr 7#4, 0xE7F0, .movecc 0#4 7#4), (.tests 7#4, 0xC7F0, .loadscc 0#4 7#4),
      (.jumps 1#4, 0xB1F0, .jsrs 0#4 1#4), (.bittst31 7#4, 0xE7F0, .movecc 0#4 7#4),
      (.clr 3#4, 0x00D3, .lis 3#4 0#8), (.sl 3#4 4#4, 0x04A3, .addsl 3#4 0#4 4#4),
      (.sr 3#4 1#4, 0x0193, .addsr 3#4 0#4 1#4), (.sru 3#4 0#4, 0x0083, .addsru 3#4 0#4 0#4),
      (.bittstLow 5#4 4#4, 0x5490, .addsr 0#4 5#4 4#4), (.bittstHigh 5#4 11#4, 0x5BB0, .movesl 0#4 5#4 11#4),
      (.neg 3#4 4#4, 0x0423, .sub 3#4 0#4 4#4), (.cmp 4#4 5#4, 0x4520, .sub 0#4 4#4 5#4),
      (.not 3#4, 0x9013, .equ 3#4 0#4), (.rol 3#4, 0x7313, .addc 3#4 3#4), (.rtt, 0x1110, .cpuget 0#4 1#4),
      (.bltu 3#8, 0x030C, .bcr 3#8), (.bne 3#8, 0x030A, .bzr 3#8), (.bgeu 3#8, 0x0304, .bcs 3#8),
      (.beq 3#8, 0x0302, .bzs 3#8), (.nop, 0x0000, .br 0#8), (.bbs 20#5 3#8, 0x0301, .bns 3#8),
      (.bbs 3#5 3#8, 0x0304, .bcs 3#8), (.bbr 20#5 3#8, 0x0309, .bnr 3#8),
      (.bbr 3#5 3#8, 0x030C, .bcr 3#8)] : List (Instr × Nat × Instr)).all
      fun p => encode p.1 == [BitVec.ofNat 16 p.2.1] && decodeTableWord 16 p.2.1 == some p.2.2) = true := by
  decide

/-- ADDI R4,R4,100; CMPI R3,10; TEST R2,4; JUMP R0,-4; LIW R3,#12345678. -/
theorem test_derived_long_words :
    encode (.addi 4#4 4#4 100#16) = [0x64F4#16, 0x0064#16] ∧ encode (.cmpi 3#4 10#16) = [0x63F0#16, 0xFFF6#16] ∧
    encode (.test 2#4 4#16) = [0x42F0#16, 0x0004#16] ∧ encode (.jump 0#4 0xFFFC#16) = [0x30F0#16, 0xFFFC#16] ∧
    encode (.liw 3#4 0x12345678#32) = [0x56E3#16, 0x1234#16, 0x78C3#16] ∧
    decodeTableWord 32 0x006464F4 = some (.leacc 4#4 4#4 100#16) ∧
    decodeTableWord 32 0xFFF663F0 = some (.leacc 0#4 3#4 0xFFF6#16) ∧
    decodeTableWord 32 0x000442F0 = some (.loadcc 0#4 2#4 4#16) ∧
    decodeTableWord 32 0xFFFC30F0 = some (.jsr 0#4 0#4 0xFFFC#16) := by decide

/-! ## Steps -/

/-- A word placed where the next step fetches runs as the first instruction after reset (Q1, V1). -/
theorem test_first_step_after_reset :
    sees (step (State.reset.withFetchWord 32 0x123456E3)) (regCcPc 3#4) =
      some (0x123456#32, code false false false false, 4#32) ∧
    sees (step State.reset) (·.pc) = some 2#32 := by decide

/-- B23: JUMP R0,-4 fetched at 0x1000 is a fixed point of the step. -/
theorem test_step_fixed_point :
    sees (step ((start 0#32 0#32 0#32).withFetchWord 32 0xFFFC30F0)) (·.pc) = some 0x1000#32 := by decide

/-! ## Short Memory Reference Format (A1 to A28) -/

theorem test_move : sees (exec (.move 3#4 4#4) (start 0#32 0x1234#32 0#32)) (regCcPc 3#4) =
    some (0x1234#32, kept, 0x1002#32) := by decide
theorem test_move_pc : sees (exec (.move 3#4 0#4) (start 0#32 0#32 0#32)) (regCcPc 3#4) =
    some (0x1002#32, kept, 0x1002#32) := by decide
theorem test_movecc : sees (exec (.movecc 5#4 4#4) (start 0#32 0x80000000#32 0#32)) (regCcPc 5#4) =
    some (0x80000000#32, code true false false false, 0x1002#32) := by decide
theorem test_loads : sees (exec (.loads 3#4 4#4) ((start 0#32 0x10002#32 0#32).setRamWord 0x10000#32 0xCAFEBABE#32))
    (regCcPc 3#4) = some (0xCAFEBABE#32, kept, 0x1002#32) := by decide
theorem test_loads_odd_jump :
    exec (.loads 0#4 4#4) ((start 0#32 0x10000#32 0#32).setRamWord 0x10000#32 0x2001#32) =
      .fault (.pcOdd 0x2001#32) := by rfl
theorem test_loadscc : sees (exec (.loadscc 3#4 4#4) (start 0#32 0x10000#32 0#32)) (regNz 3#4) =
    some (0#32, false, true) := by decide
theorem test_jsrs_exchange : sees (exec (.jsrs 5#4 5#4) (start 0#32 0#32 0x2000#32)) (regCcPc 5#4) =
    some (0x1002#32, kept, 0x2000#32) := by decide
theorem test_stores : sees (exec (.stores 3#4 4#4) (start 0x11223344#32 0x10009#32 0#32))
    (fun t => (t.mem, t.pc)) =
    some ([(0x10008, 0x44#8), (0x10009, 0x33#8), (0x1000A, 0x22#8), (0x1000B, 0x11#8)], 0x1002#32) := by decide
theorem test_stores_zero : sees (exec (.stores 0#4 4#4)
    ((start 0#32 0x1000B#32 0#32).setRamWord 0x10008#32 0xFFFFFFFF#32)) (·.mem) = some [] := by decide
theorem test_loadl : sees (exec (.loadl 3#4 4#4) ((start 0#32 0x10003#32 0#32).setRamWord 0x10000#32 5#32))
    (fun t => (regNz 3#4 t, t.resv)) = some ((5#32, false, false), some 0x10000#32) := by decide
/-- A28: a reservation of another word. -/
theorem test_storec_fails : sees (exec (.storec 3#4 4#4) ((start 6#32 0x10000#32 0#32).setResv (some 0x10004#32)))
    (fun t => (t.mem, t.cc, t.resv)) = some ([], code false false true false, none) := by decide
theorem test_testr : sees (exec (.testr 4#4) (start 0#32 0#32 0#32)) (·.cc) =
    some (code false true false false) := by decide
theorem test_tests : sees (exec (.tests 4#4) ((start 0#32 0x10000#32 0#32).setRamWord 0x10000#32 0x80000000#32))
    (fun t => (t.cc.n, t.cc.z, t.pc)) = some (true, false, 0x1002#32) := by decide
theorem test_jumps : sees (exec (.jumps 4#4) (start 0#32 0x2002#32 0#32)) (·.pc) = some 0x2002#32 := by decide
theorem test_bittst31 : sees (exec (.bittst31 4#4) (start 0#32 0x80000001#32 0#32)) (·.cc) =
    some (code true false false false) := by decide

/-! ## Memory Reference Format (B1 to B27) -/

theorem test_lea : sees (exec (.lea 3#4 4#4 0xFFFC#16) (start 0#32 0x10000#32 0#32)) (regCcPc 3#4) =
    some (0xFFFC#32, kept, 0x1004#32) := by decide
theorem test_leacc : sees (exec (.leacc 3#4 3#4 0xFFFF#16) (start 5#32 0#32 0#32)) (regCcPc 3#4) =
    some (4#32, code false false false true, 0x1004#32) := by decide
theorem test_load : sees (exec (.load 3#4 4#4 4#16) ((start 0#32 0x10000#32 0#32).setRamWord 0x10004#32 7#32))
    (regCcPc 3#4) = some (7#32, kept, 0x1004#32) := by decide
theorem test_load_jump : sees (exec (.load 0#4 4#4 4#16)
    ((start 0#32 0x10000#32 0#32).setRamWord 0x10004#32 0x3000#32)) (·.pc) = some 0x3000#32 := by decide
theorem test_loadcc : sees (exec (.loadcc 3#4 4#4 4#16)
    ((start 0#32 0x10000#32 0#32).setRamWord 0x10004#32 0xFFFFFFFF#32)) (regNz 3#4) =
    some (0xFFFFFFFF#32, true, false) := by decide
theorem test_jsr : sees (exec (.jsr 3#4 0#4 0xFC#16) (start 0#32 0#32 0#32)) (regCcPc 3#4) =
    some (0x1004#32, kept, 0x1100#32) := by decide
theorem test_store : sees (exec (.store 3#4 4#4 4#16) (start 0xDEADBEEF#32 0x10000#32 0#32))
    (fun t => (t.ramWord 0x10004#32, t.byteAt 0x10004#32, t.pc)) =
    some (0xDEADBEEF#32, 0xEF#8, 0x1004#32) := by decide
theorem test_addi : sees (exec (.addi 4#4 4#4 100#16) (start 0#32 0x7FFFFFFF#32 0#32)) (regCcPc 4#4) =
    some (0x80000063#32, code true false true false, 0x1004#32) := by decide
theorem test_cmpi : sees (exec (.cmpi 3#4 10#16) (start 9#32 0#32 0#32)) (regCcPc 3#4) =
    some (9#32, code true false false false, 0x1004#32) := by decide
theorem test_cmpi_zero : sees (exec (.cmpi 3#4 0#16) (start 0#32 0#32 0#32)) (·.cc) =
    some (code false true false false) := by decide
theorem test_test : sees (exec (.test 4#4 4#16) (start 0#32 0x10000#32 0#32)) (fun t => (t.cc.n, t.cc.z, t.pc)) =
    some (false, true, 0x1004#32) := by decide
theorem test_jump : sees (exec (.jump 0#4 0xFFFC#16) (start 0#32 0#32 0#32)) (·.pc) = some 0x1000#32 := by decide

/-! ## Immediates (Q1 to Q14) -/

theorem test_lil : sees (exec (.lil 3#4 0x800000#24) (start 0#32 0#32 0#32)) (regCcPc 3#4) =
    some (0xFF800000#32, kept, 0x1004#32) := by decide
theorem test_lil_jump : sees (exec (.lil 0#4 0x2000#24) (start 0#32 0#32 0#32)) (·.pc) = some 0x2000#32 := by decide
theorem test_lis : sees (exec (.lis 3#4 0x80#8) (start 0#32 0#32 0#32)) (regCcPc 3#4) =
    some (0xFFFFFF80#32, kept, 0x1002#32) := by decide
theorem test_oris : sees (exec (.oris 3#4 0xFF#8) (start 0xAB000001#32 0#32 0#32)) (regCcPc 3#4) =
    some (0x1FF#32, kept, 0x1002#32) := by decide
theorem test_clr : sees (exec (.clr 3#4) (start 0xFFFFFFFF#32 0#32 0#32)) (regCcPc 3#4) =
    some (0#32, kept, 0x1002#32) := by decide
theorem test_liw : sees (exec (.liw 3#4 0xFFFFFF80#32) (start 0#32 0#32 0#32)) (regCcPc 3#4) =
    some (0xFFFFFF80#32, kept, 0x1006#32) := by decide

/-! ## Shift Format (E1 to E30) -/

theorem test_movesl : sees (exec (.movesl 3#4 4#4 0#4) (start 0#32 0x1234ABCD#32 0#32)) (regNz 3#4) =
    some (0xABCD0000#32, true, false) := by decide
theorem test_addsl : sees (exec (.addsl 3#4 4#4 1#4) (start 0xC0000000#32 1#32 0#32)) (regNz 3#4) =
    some (0x80000001#32, true, false) := by decide
theorem test_addsr : sees (exec (.addsr 3#4 4#4 1#4) (start 0x80000000#32 0x80000000#32 0#32)) (regNzc 3#4) =
    some (0x80000000#32, true, false, false) := by decide
theorem test_addsr_narrow : sees (exec (.addsr 3#4 4#4 1#4) (narrow (start 0x80000000#32 0x80000000#32 0#32)))
    (regNzc 3#4) = some (0#32, false, true, false) := by decide
theorem test_addsru : sees (exec (.addsru 3#4 4#4 4#4) (start 0xFFFFFFF0#32 0x28#32 0#32)) (regNzc 3#4) =
    some (0x10000001#32, false, false, true) := by decide
theorem test_addsru_narrow : sees (exec (.addsru 3#4 4#4 1#4) (narrow (start 0xFFFFFFFF#32 1#32 0#32)))
    (regNzc 3#4) = some (0#32, false, true, false) := by decide
theorem test_sl : sees (exec (.sl 3#4 0#4) (start 0x1FFFF#32 0#32 0#32)) (regNz 3#4) =
    some (0xFFFF0000#32, true, false) := by decide
theorem test_sr : sees (exec (.sr 3#4 1#4) (start 0xFFFFFFF9#32 0#32 0#32)) (regNzc 3#4) =
    some (0xFFFFFFFC#32, true, false, true) := by decide
theorem test_sru : sees (exec (.sru 3#4 0#4) (start 0x12345678#32 0#32 0#32)) (regNzc 3#4) =
    some (0x1234#32, false, false, false) := by decide
theorem test_bittstLow : sees (exec (.bittstLow 5#4 0#4) (start 0#32 0#32 0x8000#32)) (regNzc 5#4) =
    some (0x8000#32, false, true, true) := by decide
theorem test_bittstHigh : sees (exec (.bittstHigh 5#4 1#4) (start 0#32 0#32 0xBFFFFFFF#32)) (regNz 5#4) =
    some (0xBFFFFFFF#32, false, false) := by decide

/-! ## Byte and Halfword Format (F1 to F24) -/

theorem test_stuffb : sees (exec (.stuffb 3#4 4#4 5#4) (start 0x11223344#32 0xFFFFFFAB#32 0x10002#32))
    (regCcPc 3#4) = some (0x11AB3344#32, kept, 0x1002#32) := by decide
theorem test_stuffb_same : sees (exec (.stuffb 3#4 3#4 3#4) (start 0xC2#32 0#32 0#32)) (·.reg 3#4) =
    some 0xC200C2#32 := by decide
theorem test_stuffh : sees (exec (.stuffh 3#4 4#4 5#4) (start 0x11223344#32 0xFFFFBEEF#32 0x10003#32))
    (regCcPc 3#4) = some (0xBEEF3344#32, kept, 0x1002#32) := by decide
theorem test_extb : sees (exec (.extb 3#4 4#4 5#4) (start 0#32 0x11223344#32 0x10001#32)) (regCcPc 3#4) =
    some (0x33#32, code false false false false, 0x1002#32) := by decide
/-- F6: `EXT_N` = msb_of_field. -/
theorem test_extb_top : sees (exec (.extb 3#4 4#4 0#4)
    { start 0#32 0x112233FF#32 0#32 with config := { Config.base with extN := .msbOfField } }) (regCcPc 3#4) =
    some (0xFF#32, code true false false false, 0x1002#32) := by decide
theorem test_exth : sees (exec (.exth 3#4 4#4 5#4) (start 0#32 0x11223344#32 0x10003#32)) (regCcPc 3#4) =
    some (0x1122#32, code false false false false, 0x1002#32) := by decide

/-! ## Add and Subtract Format (Y1 to Y25) -/

theorem test_add : sees (exec (.add 3#4 4#4 5#4) (start 0#32 0x80000000#32 0x80000000#32)) (regCcPc 3#4) =
    some (0#32, code false true true true, 0x1002#32) := by decide
theorem test_sub : sees (exec (.sub 3#4 4#4 5#4) (start 0#32 0x80000000#32 1#32)) (regCcPc 3#4) =
    some (0x7FFFFFFF#32, code false false true true, 0x1002#32) := by decide
theorem test_sub_borrow : sees (exec (.sub 3#4 4#4 5#4) (start 0#32 3#32 5#32)) (regCcPc 3#4) =
    some (0xFFFFFFFE#32, code true false false false, 0x1002#32) := by decide
theorem test_neg : sees (exec (.neg 3#4 4#4) (start 0#32 0x80000000#32 0#32)) (regCcPc 3#4) =
    some (0x80000000#32, code true false true false, 0x1002#32) := by decide
theorem test_cmp : sees (exec (.cmp 4#4 5#4) (start 0#32 0xFFFFFFFF#32 1#32)) (regCcPc 4#4) =
    some (0xFFFFFFFF#32, code true false false true, 0x1002#32) := by decide

/-! ## Short Constant Format (H1 to H35) -/

theorem test_trunc : sees (exec (.trunc 3#4 0#4) (start 0xFFFF8000#32 0#32 0#32)) (regNz 3#4) =
    some (0x8000#32, false, false) := by decide
theorem test_sxt : sees (exec (.sxt 3#4 0#4) (start 0x18000#32 0#32 0#32)) (regNz 3#4) =
    some (0xFFFF8000#32, true, false) := by decide
theorem test_sxt_one_bit : sees (exec (.sxt 3#4 1#4) (start 0xFFFFFFF1#32 0#32 0#32)) (regNz 3#4) =
    some (0xFFFFFFFF#32, true, false) := by decide
theorem test_btrunc : sees (exec (.btrunc 3#4 0#4) (start 0xFFFFFFFF#32 0#32 0#32)) (regCcPc 3#4) =
    some (0xFFFFFFFF#32, kept, 0x21000#32) := by decide
theorem test_addsi : sees (exec (.addsi 3#4 0#4) (start 0x7FFFFFF8#32 0#32 0#32)) (regCcPc 3#4) =
    some (0x80000000#32, code true false true false, 0x1002#32) := by decide
theorem test_addsi_negative : sees (exec (.addsi 3#4 8#4) (start 0x80000007#32 0#32 0#32)) (regCcPc 3#4) =
    some (0x7FFFFFFF#32, code false false true true, 0x1002#32) := by decide

/-! ## Two Register Format (K1 to K23) -/

theorem test_and : sees (exec (.and 3#4 4#4) (start 0xFF00FF00#32 0x0FF00FF0#32 0#32)) (regCcPc 3#4) =
    some (0x0F000F00#32, code false false false false, 0x1002#32) := by decide
theorem test_or : sees (exec (.or 3#4 4#4) (start 0x80000000#32 1#32 0#32)) (regCcPc 3#4) =
    some (0x80000001#32, code true false false false, 0x1002#32) := by decide
theorem test_equ : sees (exec (.equ 3#4 4#4) (start 0xFFFF#32 0xFF00FF#32 0#32)) (regCcPc 3#4) =
    some (0xFF0000FF#32, code true false false false, 0x1002#32) := by decide
theorem test_addc : sees (exec (.addc 3#4 4#4) ((start 0x7FFFFFFF#32 0#32 0#32).setCc (code false false false true)))
    (regCcPc 3#4) = some (0x80000000#32, code true false true false, 0x1002#32) := by decide
theorem test_subb : sees (exec (.subb 3#4 4#4) (start 0x80000000#32 0#32 0#32)) (regCcPc 3#4) =
    some (0x7FFFFFFF#32, code false false true true, 0x1002#32) := by decide
theorem test_not : sees (exec (.not 3#4) (start 0xFFFFFFFF#32 0#32 0#32)) (regCcPc 3#4) =
    some (0#32, code false true false false, 0x1002#32) := by decide
theorem test_rol : sees (exec (.rol 3#4) ((start 0x40000000#32 0#32 0#32).setCc (code false false false true)))
    (regCcPc 3#4) = some (0x80000001#32, code true false true false, 0x1002#32) := by decide

/-! ## Special Format (L1 to L18) -/

theorem test_adjust : sees (exec (.adjust 3#4 15#4) (start 0xFFFFFFFF#32 0#32 0#32)) (regCcPc 3#4) =
    some (0x7F#32, kept, 0x1002#32) := by decide
theorem test_adjust_open_runs : runs (exec (.adjust 3#4 2#4) (start 0#32 0#32 0#32)) = true := by rfl
/-- L5 and X12: `adj` defined for 8 to 15 only. -/
theorem test_adjust_unmapped :
    exec (.adjust 3#4 2#4) (adjusting (start 0#32 0#32 0#32) 0#8) = .refused (.adjUnmapped 2#4) ∧
    runs (exec (.adjust 3#4 8#4) (adjusting (start 0#32 0#32 0#32) 0#8)) = true := ⟨rfl, rfl⟩
theorem test_plus : sees (exec (.plus 3#4 0#4) (start 0x10#32 0#32 0#32)) (regCcPc 3#4) =
    some (0x1012#32, kept, 0x1002#32) := by decide
theorem test_coget_absent : exec (.coget 3#4 1#4) (start 0#32 0#32 0#32) = .fault (.coproc 1#4) := by rfl
theorem test_coget_present : runs (exec (.coget 3#4 1#4) (withCo (start 0#32 0#32 0#32))) = true := by rfl
theorem test_coset_absent : exec (.coset 3#4 1#4) (start 0#32 0#32 0#32) = .fault (.coproc 1#4) := by rfl
theorem test_coset_present : sees (exec (.coset 3#4 1#4) (withCo (start 7#32 0#32 0#32)))
    (fun t => (t.coReg 1#4, t.cc)) = some (7#32, kept) := by decide
theorem test_cpuget : sees (exec (.cpuget 3#4 1#4) ((start 0#32 0#32 0#32).setCpuReg 1#4 0x1234#32)) (regCcPc 3#4) =
    some (0x1234#32, kept, 0x1002#32) := by decide
theorem test_cpuget_pc : exec (.cpuget 0#4 2#4) (start 0#32 0#32 0#32) = .refused (.cpugetPc 2#4) := by rfl
theorem test_cpuset : sees (exec (.cpuset 3#4 1#4) (start 0x2000#32 0#32 0#32)) (fun t => (t.tpc, t.cc)) =
    some (0x2000#32, kept) := by decide
theorem test_cpuset_status : sees (exec (.cpuset 3#4 0#4) (start 0xA500C306#32 0#32 0#32))
    (fun t => (t.level, t.prior, t.bcd, t.cc)) =
    some (0xA#4, 5#4, 0xC3#8, code false true true false) := by decide
theorem test_rtt : sees (exec .rtt { (start 0#32 0#32 0#32).setCpuReg 1#4 0x1234#32 with prior := 3#4 })
    (fun t => (t.pc, t.level, t.prior, t.cc)) = some (0x1234#32, 3#4, 3#4, kept) := by decide
theorem test_rtt_odd : exec .rtt ((start 0#32 0#32 0#32).setCpuReg 1#4 0x1235#32) =
    .fault (.pcOdd 0x1235#32) := by rfl

/-! ## Unassigned encodings and traps (B26, B27, K11, M9, X1 to X4) -/

theorem test_unassigned :
    exec (.unassignedMem1 3#4 2#4) (start 0#32 0#32 0#32) = .fault (.illegal 0x12F3#16) ∧
    exec (.unassignedMem0 3#4 2#4) (start 0#32 0#32 0#32) = .fault (.illegal 0x02F3#16) ∧
    exec (.unassignedTwoReg 3#4 4#4) (start 0#32 0#32 0#32) = .fault (.illegal 0x8413#16) ∧
    exec (.unassignedBranch 3#8) (start 0#32 0#32 0#32) = .fault (.illegal 0x0308#16) := ⟨rfl, rfl, rfl, rfl⟩
theorem test_trap : sees (exec (.unassignedBranch 3#8)
    { trapping (start 0#32 0#32 0#32) Config.sketchTraps with level := 3#4, resv := some 0#32 })
    (fun t => (t.pc, t.tpc, t.prior, t.level, t.resv)) =
    some (0x20#32, 0x1000#32, 3#4, 0#4, none) := by decide
theorem test_bus_trap : sees (exec (.loads 3#4 4#4)
    (mapped (trapping (start 0#32 0x20002#32 0#32) Config.sketchTraps) (oneRegion 0 0x20000 .ram)))
    (fun t => (t.pc, t.tpc, t.cpuReg 2#4)) = some (0x10#32, 0x1000#32, 0x20000#32) := by decide

/-- X1 to X4: nothing is mapped from 0x2000 on. -/
theorem test_fetch_order :
    let s := { mapped (start 0#32 0#32 0#32) (oneRegion 0x1FF8 8 .ram) with pc := 0x1FFE#32 }
    step { s with pc := 0x2000#32 } = .fault (.bus 0x2000#32) ∧
    step ((s.setByte 0x1FFE#32 0xF3#8).setByte 0x1FFF#32 0x52#8) = .fault (.bus 0x2000#32) ∧
    step ((s.setByte 0x1FFE#32 0xF3#8).setByte 0x1FFF#32 0x12#8) = .fault (.illegal 0x12F3#16) ∧
    step ((s.setByte 0x1FFE#32 0xF0#8).setByte 0x1FFF#32 0x72#8) = .refused (.reservedOperand "LEA" .dst) :=
  ⟨rfl, rfl, rfl, rfl⟩

/-! ## Branch Format (T1 to T16, V1 to V13) -/

theorem test_br : sees (exec (.br 0x80#8) (start 0#32 0#32 0#32)) (regCcPc 3#4) =
    some (0#32, kept, 0x0F02#32) := by decide
theorem test_nop : sees (exec .nop (start 0#32 0#32 0#32)) (·.pc) = some 0x1002#32 := by decide

/-- Row T10 of the truth table: N = 1, Z = 0, V = 0, C = 1. -/
theorem test_branches_T10 :
    (([(.bns 3#8, true), (.bzs 3#8, false), (.bvs 3#8, false), (.bcs 3#8, true), (.bleu 3#8, false), (.bnr 3#8, false),
      (.bzr 3#8, true), (.bvr 3#8, true), (.bcr 3#8, false), (.bgtu 3#8, true), (.blt 3#8, false), (.ble 3#8, false),
      (.bge 3#8, true), (.bgt 3#8, true), (.bltu 3#8, false), (.bne 3#8, true), (.bgeu 3#8, true), (.beq 3#8, false),
      (.bbs 16#5 3#8, true), (.bbs 15#5 3#8, true), (.bbr 16#5 3#8, false), (.bbr 15#5 3#8, false)] :
      List (Instr × Bool)).all fun p =>
        sees (exec p.1 (coded true false false true)) (·.pc) == some (if p.2 then 0x1008#32 else 0x1002#32)) = true := by
  decide

/-- Row T7: N = 0, Z = 1, V = 1, C = 0; the last four under SIGNED_COND = conventional. -/
theorem test_branches_T7 :
    (([(.bns 3#8, false), (.bzs 3#8, true), (.bvs 3#8, true), (.bcs 3#8, false), (.bleu 3#8, true), (.bnr 3#8, true),
      (.bzr 3#8, false), (.bvr 3#8, false), (.bcr 3#8, true), (.bgtu 3#8, false), (.blt 3#8, true), (.ble 3#8, true),
      (.bge 3#8, false), (.bgt 3#8, false)] : List (Instr × Bool)).all fun p =>
        sees (exec p.1 (conventional (coded false true true false))) (·.pc) ==
          some (if p.2 then 0x1008#32 else 0x1002#32)) = true := by
  decide

/-! ## Witnesses: for each statement with hypotheses, a state and operands that meet them

The other statements hold for every state and operand and have no hypothesis. -/

theorem trapsTerminal_start (a b c : Word) : TrapsTerminal (start a b c) := by
  intro f; cases f <;> rfl

theorem witness_StepRunsDecodedInstruction :
    let s := (start 0#32 0#32 0#32).withFetchWord 16 0xF4F3
    let l := (start 0#32 0#32 0#32).withFetchWord 32 0x000872F3
    (s.executable s.pc = true ∧ decode (s.halfAt s.pc) (s.halfAt (s.pc + 2#32)) = .ok (.move 3#4 4#4) ∧
      lengthOf (.move 3#4 4#4) ≠ 4#32) ∧
    (l.executable l.pc = true ∧ decode (l.halfAt l.pc) (l.halfAt (l.pc + 2#32)) = .ok (.lea 3#4 2#4 8#16) ∧
      l.executable (l.pc + 2#32) = true) := by decide

theorem witness_StepChecksFetchInOrder :
    let s := { mapped (start 0#32 0#32 0#32) (oneRegion 0x1FF8 8 .ram) with pc := 0x1FFE#32 }
    let l := (s.setByte 0x1FFE#32 0xF3#8).setByte 0x1FFF#32 0x52#8
    let u := (s.setByte 0x1FFE#32 0xF3#8).setByte 0x1FFF#32 0x12#8
    let r := (s.setByte 0x1FFE#32 0xF0#8).setByte 0x1FFF#32 0x72#8
    ({ s with pc := 0x2000#32 } : State).executable 0x2000#32 = false ∧
    (r.executable r.pc = true ∧ decode (r.halfAt r.pc) 0#16 = .reserved "LEA" .dst) ∧
    (u.executable u.pc = true ∧ decode (u.halfAt u.pc) 0#16 = .ok (.unassignedMem1 3#4 2#4) ∧
      isUnassigned (.unassignedMem1 3#4 2#4) = true ∧ u.executable (u.pc + 2#32) = false) ∧
    (l.executable l.pc = true ∧ decode (l.halfAt l.pc) 0#16 = .ok (.load 3#4 2#4 0#16) ∧
      isUnassigned (.load 3#4 2#4 0#16) = false ∧ lengthOf (.load 3#4 2#4 0#16) = 4#32 ∧ l.executable (l.pc + 2#32) = false) := by decide

theorem witness_DecodeOfEncodeIsTheInstruction :
    ((Instr.lea 3#4 2#4 8#16).wellFormed = true ∧ expansion (.lea 3#4 2#4 8#16) = [.lea 3#4 2#4 8#16]) ∧
    ((Instr.cmp 4#4 5#4).wellFormed = true ∧ expansion (.cmp 4#4 5#4) = [.sub 0#4 4#4 5#4]) ∧
    (3#4 : Nibble) ≠ 0#4 := by decide

theorem witness_DerivedNamesAreSpellings :
    (0 ≤ 15 ∧ 15 ≤ 15) ∧ (16 ≤ 16 ∧ 16 ≤ 30) ∧ (16 ≤ 30 ∧ 30 ≤ 30) := by decide

theorem witness_EncodeOfDecodeIsTheWords :
    decode 0x63F0#16 0xFFF6#16 = .ok (.leacc 0#4 3#4 0xFFF6#16) ∧ decode 0x0308#16 0#16 = .ok (.unassignedBranch 3#8) := by
  decide

/-- A halfword for each row: its match under its mask is its match. -/
theorem witness_OpcodeMapSelectsEachRow :
    (([0xF0F0#16, 0xE0F0#16, 0xD0F0#16, 0xC0F0#16, 0xB0F0#16, 0xA0F0#16, 0x90F0#16, 0x80F0#16, 0x70F0#16, 0x60F0#16,
      0x50F0#16, 0x40F0#16, 0x30F0#16, 0x20F0#16, 0x10F0#16, 0x00F0#16, 0xF010#16, 0xE010#16, 0xD010#16, 0xC010#16,
      0xB010#16, 0xA010#16, 0x9010#16, 0x8010#16, 0x7010#16, 0x6010#16, 0x5010#16, 0x4010#16, 0x3010#16, 0x2010#16,
      0x1010#16, 0x0010#16] : List Half).all fun m => m &&& 0xF0F0#16 == m) = true ∧
    (([0x00E0#16, 0x00D0#16, 0x00C0#16, 0x00B0#16, 0x00A0#16, 0x0090#16, 0x0080#16, 0x0070#16, 0x0060#16, 0x0050#16,
      0x0040#16, 0x0030#16, 0x0020#16] : List Half).all fun m => m &&& 0x00F0#16 == m) = true ∧
    (([0#16, 1#16, 2#16, 3#16, 4#16, 5#16, 6#16, 7#16, 8#16, 9#16, 10#16, 11#16, 12#16, 13#16, 14#16, 15#16] :
      List Half).all fun m => m &&& 0x00FF#16 == m) = true := by decide

/-- The decoder on each row's match, with every bit outside its mask 1, names the row's field; the last two lines:
a halfword that two rows of ADD match. -/
theorem witness_ReservedEncodingsAreExactlyThoseListed :
    reservedRows.length = 27 ∧
    (reservedRows.all fun r => match decode (r.1 ||| ~~~ r.2.1) 0#16 with
      | .reserved m f => m == r.2.2.1 && f == r.2.2.2
      | .ok _ => false) = true ∧
    ((0x0030#16, 0x0FF0#16, "ADD", Field.s2) ∈ reservedRows ∧ 0x0033#16 &&& 0x0FF0#16 = 0x0030#16 ∧
      decode 0x0033#16 0#16 = .reserved "ADD" .s1) := by decide

theorem reset_inv : Inv State.reset := ⟨rfl, rfl, fun _ h => nomatch h⟩

theorem witness_StepKeepsInvariant :
    Inv State.reset ∧ step State.reset = .next (State.reset.setPc 2#32) := ⟨reset_inv, rfl⟩

theorem witness_OnlyListedInstructionsWriteCodes :
    writesFlags (.lis 3#4 5#8) = false ∧ runs (exec (.lis 3#4 5#8) (start 0#32 0#32 0#32)) = true := by decide

theorem witness_OnlyStoresWriteMemory :
    storesToMemory (.add 3#4 4#4 5#4) = false ∧ runs (exec (.add 3#4 4#4 5#4) (start 0#32 1#32 2#32)) = true := by
  decide

theorem witness_OnlyListedInstructionsLeaveSequence :
    TrapsTerminal (start 0#32 0#32 0#32) ∧ writesPc (.liw 3#4 5#32) = false ∧
    runs (exec (.liw 3#4 5#32) (start 0#32 0#32 0#32)) = true := ⟨trapsTerminal_start _ _ _, rfl, rfl⟩

theorem witness_OnlyRttAndCpusetChangeLevel :
    TrapsTerminal (start 0#32 0#32 0#32) ∧
    (writesLevel (.cpuset 3#4 1#4) = false ∧ runs (exec (.cpuset 3#4 1#4) (start 0#32 0#32 0#32)) = true) ∧
    ((∀ r, Instr.rtt ≠ .cpuset r 0#4) ∧ runs (exec .rtt (start 0#32 0#32 0#32)) = true) :=
  ⟨trapsTerminal_start _ _ _, ⟨rfl, rfl⟩, fun _ h => (nomatch h), rfl⟩

theorem witness_OnlyDestinationRegisterWritten :
    runs (exec (.add 3#4 4#4 5#4) (start 0#32 1#32 2#32)) = true ∧ (4#4 : Nibble) ≠ 0#4 ∧
    (4#4 : Nibble) ≠ destOf (.add 3#4 4#4 5#4) := by decide

/-- One fault of each kind, in states whose faults are terminal. -/
theorem witness_FaultsComeOnlyFromListedInstructions :
    let s := start 0#32 0x20000#32 0x2001#32
    let unmapped := mapped s (oneRegion 0 0x20000 .ram)
    let locked := forbidding s allForbidden
    (TrapsTerminal s ∧ TrapsTerminal unmapped ∧ TrapsTerminal locked) ∧
    exec (.unassignedTwoReg 3#4 4#4) s = .fault (.illegal 0x8413#16) ∧
    exec (.loads 3#4 4#4) unmapped = .fault (.bus 0x20000#32) ∧
    exec (.jumps 5#4) s = .fault (.pcOdd 0x2001#32) ∧
    exec .rtt locked = .fault (.priv 0x1110#16) ∧
    exec (.coset 3#4 2#4) s = .fault (.coproc 2#4) :=
  ⟨⟨trapsTerminal_start _ _ _, by intro f; cases f <;> rfl, by intro f; cases f <;> rfl⟩, rfl, rfl, rfl, rfl, rfl⟩

theorem witness_ZeroInNonzeroFieldIsRefused :
    (5#4 : Nibble) ≠ 0#4 ∧ exec (.add 4#4 5#4 0#4) (start 0#32 0#32 0#32) = .refused (.reservedOperand "ADD" .s2) :=
  ⟨by decide, rfl⟩

theorem witness_UnassignedEncodingsRaiseIllegal :
    (0x12F3#16 &&& 0xF0F0#16 = 0x10F0#16 ∧ 0x02F3#16 &&& 0xF0F0#16 = 0x00F0#16 ∧
      0x8413#16 &&& 0xF0F0#16 = 0x8010#16 ∧ 0x0308#16 &&& 0x00FF#16 = 0x0008#16) ∧
    (isUnassigned (.unassignedBranch 3#8) = true ∧ (encode (.unassignedBranch 3#8)).head? = some 0x0308#16) ∧
    (start 0#32 0#32 0#32).config.traps.illegal = none ∧
    (trapping (start 0#32 0#32 0#32) Config.sketchTraps).config.traps.illegal = some 0x20#32 ∧
    (0x20#32 : Word)[0] = false := by decide

theorem witness_RaisingAFaultIsTerminalOrTraps :
    trapVector (start 0#32 0#32 0#32).config.traps (.bus 4#32) = none ∧
    (trapVector (trapping (start 0#32 0#32 0#32) Config.sketchTraps).config.traps (.bus 4#32) = some 0x10#32 ∧
      (0x10#32 : Word)[0] = false) ∧
    (trapVector (trapping (start 0#32 0#32 0#32)
      { Config.sketchTraps with illegal := some 0x21#32 }).config.traps (.illegal 0#16) = some 0x21#32 ∧
      (0x21#32 : Word)[0] = true) := by decide

theorem witness_TrapThenRttReturns :
    let s := trapping (start 0#32 0#32 0#32) Config.sketchTraps
    trapVector s.config.traps (.priv 0#16) = some 0x30#32 ∧ (0x30#32 : Word)[0] = false ∧ s.pc[0] = false ∧
    s.config.priv.cpuget[0] = false ∧ s.config.priv.rtt[0] = false := by decide

/-- Register numbers that are not 0 are the only hypotheses of these statements; the instructions run. -/
theorem witness_AddInstructionsAdd : (4#4 : Nibble) ≠ 0#4 ∧ (5#4 : Nibble) ≠ 0#4 ∧
    runs (exec (.add 3#4 4#4 5#4) (start 0#32 1#32 2#32)) = true ∧
    runs (exec (.addsi 4#4 15#4) (start 0#32 1#32 2#32)) = true := by decide
theorem witness_SubtractInstructionsSubtract : (5#4 : Nibble) ≠ 0#4 ∧
    runs (exec (.sub 3#4 4#4 5#4) (start 0#32 1#32 2#32)) = true ∧
    runs (exec (.neg 3#4 5#4) (start 0#32 1#32 2#32)) = true ∧
    runs (exec (.cmp 4#4 5#4) (start 0#32 1#32 2#32)) = true := by decide
theorem witness_AddThenAddcAddsDoubleWords :
    (3#4 : Nibble) ≠ 0#4 ∧ (4#4 : Nibble) ≠ 0#4 ∧ (5#4 : Nibble) ≠ 0#4 ∧ (6#4 : Nibble) ≠ 0#4 ∧
    (4#4 : Nibble) ≠ 3#4 ∧ (6#4 : Nibble) ≠ 3#4 := by decide
theorem witness_MoveAndLeaCopyTheAddress : (3#4 : Nibble) ≠ 0#4 ∧
    runs (exec (.move 3#4 0#4) (start 0#32 1#32 2#32)) = true ∧
    runs (exec (.lea 3#4 0#4 8#16) (start 0#32 1#32 2#32)) = true := by decide
theorem witness_ImmediatesLoadTheConstant : (3#4 : Nibble) ≠ 0#4 ∧ (0x800000#24)[0] = false ∧
    runs (exec (.lil 0#4 0x800000#24) (start 0#32 1#32 2#32)) = true := by decide
theorem witness_AdjustAndPlusLeaveTheCodes : (3#4 : Nibble) ≠ 0#4 ∧ 8#4 ≤ (8#4 : Nibble) ∧ 8#4 ≤ (15#4 : Nibble) ∧
    (7#4 : Nibble) < 8#4 ∧ (start 0#32 0#32 0#32).config.adjMap.getLsbD (7#4 : Nibble).toNat = true ∧
    (adjusting (start 0#32 0#32 0#32) 0#8).config.adjMap.getLsbD (7#4 : Nibble).toNat = false := by decide

theorem witness_LoadsReadTheAlignedWord : (3#4 : Nibble) ≠ 0#4 ∧
    (start 0#32 0x10002#32 0#32).readable 0x10002#32 = true ∧
    (mapped (start 0#32 0x10002#32 0#32) (oneRegion 0x10000 4 .device)).readable 0x10003#32 = true ∧
    (mapped (start 0#32 0x10002#32 0#32) (oneRegion 0x10000 4 .device)).isDevice 0x10003#32 = true := by decide

theorem witness_LoadsWithoutRegisterJump :
    let even := (start 0#32 0x10000#32 0#32).setRamWord 0x10000#32 0x2000#32
    let odd := (start 0#32 0x10000#32 0#32).setRamWord 0x10000#32 0x2001#32
    even.readable 0x10000#32 = true ∧ (wordLoaded even 0x10000#32)[0] = false ∧
    odd.readable 0x10000#32 = true ∧ (wordLoaded odd 0x10000#32)[0] = true := by decide

theorem witness_LoadsWithCodesSetThem :
    (start 0#32 0x10000#32 0#32).readable (eaLong (start 0#32 0x10000#32 0#32) 4#4 0xFFFF#16) = true := by decide

theorem witness_LoadlSetsTheReservation : (4#4 : Nibble) ≠ 0#4 ∧
    (start 0#32 0x10003#32 0#32).readable ((start 0#32 0x10003#32 0#32).reg 4#4) = true := by decide

theorem witness_StoresWriteTheAlignedWord :
    let s := start 1#32 0xFFFFFFFF#32 0#32
    let d := mapped s (oneRegion 0xFFFFFFFC 4 .device)
    (4#4 : Nibble) ≠ 0#4 ∧ Memory.wf s.mem = true ∧
    (s.writable (s.reg 4#4) = true ∧ s.isDevice (s.reg 4#4) = false) ∧
    (d.writable (d.reg 4#4) = true ∧ d.isDevice (d.reg 4#4) = true) ∧
    (s.writable (eaLong s 4#4 4#16) = true ∧ s.isDevice (eaLong s 4#4 4#16) = false) ∧
    (d.writable (eaLong d 4#4 0xFFFF#16) = true ∧ d.isDevice (eaLong d 4#4 0xFFFF#16) = true) := by decide

/-- No reservation; one of the word, writable and not. The draw itself is free, so both its outcomes stand in the
statement's conclusion. -/
theorem witness_StorecReportsItsOutcome :
    let s := start 6#32 0x10003#32 0#32
    let held := s.setResv (some 0x10000#32)
    let rom := mapped held (oneRegion 0x10000 4 .rom)
    let device := mapped held (oneRegion 0x10000 4 .device)
    (4#4 : Nibble) ≠ 0#4 ∧ Memory.wf s.mem = true ∧ s.resv ≠ some (s.reg 4#4 &&& 0xFFFFFFFC#32) ∧
    (held.resv = some (held.reg 4#4 &&& 0xFFFFFFFC#32) ∧ held.writable (held.reg 4#4) = true) ∧
    (device.resv = some (device.reg 4#4 &&& 0xFFFFFFFC#32) ∧ device.writable (device.reg 4#4) = true) ∧
    (rom.resv = some (rom.reg 4#4 &&& 0xFFFFFFFC#32) ∧ rom.writable (rom.reg 4#4) = false) := by decide

theorem witness_UnmappedAccessRaisesBus :
    let s := mapped (start 0#32 0x20000#32 0#32) (oneRegion 0 0x20000 .ram)
    (4#4 : Nibble) ≠ 0#4 ∧ s.readable (s.reg 4#4) = false ∧ s.writable (s.reg 4#4) = false ∧
    s.readable (eaLong s 4#4 0#16) = false ∧ s.writable (eaLong s 4#4 0#16) = false ∧
    s.readable (eaLong s 4#4 0xFFFF#16) = true := by decide

theorem witness_StoreThenLoadReturnsTheWord :
    let s := start 0x11223344#32 0x10001#32 0#32
    Memory.wf s.mem = true ∧ (4#4 : Nibble) ≠ 0#4 ∧ (5#4 : Nibble) ≠ 0#4 ∧ (0x11223344#32)[0] = false ∧
    (s.writable (eaLong s 4#4 4#16) = true ∧ s.isDevice (eaLong s 4#4 4#16) = false) ∧
    (s.writable (s.reg 4#4) = true ∧ s.isDevice (s.reg 4#4) = false) ∧
    sees (exec (.store 3#4 4#4 4#16) s) (fun t => (t.readable (eaLong t 4#4 6#16),
      eaLong t 4#4 6#16 &&& 0xFFFFFFFC#32)) = some (true, eaLong s 4#4 4#16 &&& 0xFFFFFFFC#32) ∧
    sees (exec (.stores 3#4 4#4) s) (fun t => (t.readable (t.reg 4#4), t.reg 4#4 &&& 0xFFFFFFFC#32)) =
      some (true, s.reg 4#4 &&& 0xFFFFFFFC#32) := by decide

theorem witness_SubroutineCallsSaveAndJump :
    let s := start 0#32 0x2000#32 0#32
    (s.reg 4#4)[0] = false ∧ (s.reg 4#4 + BitVec.ofInt 32 (0xFFFE#16 : Half).toInt)[0] = false := by decide

theorem witness_OddTargetsRaisePcOdd :
    let s := (start 0#32 0x2001#32 0#32).setCpuReg 1#4 0x1235#32
    (s.reg 4#4)[0] = true ∧ (eaLong s 4#4 2#16)[0] = true ∧ (1#24)[0] = true ∧ s.tpc[0] = true ∧
    s.config.priv.cpuget.getLsbD s.level.toNat = false ∧ s.config.priv.rtt.getLsbD s.level.toNat = false := by
  decide

theorem witness_BtruncBranchesByTheRegister : (3#4 : Nibble) ≠ 0#4 ∧
    runs (exec (.btrunc 3#4 2#4) (start 7#32 0#32 0#32)) = true := by decide
theorem witness_LeftShiftsShiftThenAdd : (3#4 : Nibble) ≠ 0#4 ∧ (4#4 : Nibble) ≠ 0#4 ∧
    runs (exec (.movesl 3#4 4#4 2#4) (start 7#32 1#32 0#32)) = true ∧
    runs (exec (.addsl 3#4 4#4 2#4) (start 7#32 1#32 0#32)) = true := ⟨by decide, by decide, rfl, rfl⟩

/-- The boundary bits of the three ranges: 0 and 15 by ADDSR, 16 and 30 by MOVESL, 31 by MOVECC. -/
theorem witness_BittstThenBranchTestsTheBit : (5#4 : Nibble) ≠ 0#4 ∧
    sees (exec (.bittstLow 5#4 1#4) (start 0#32 0#32 1#32)) (·.cc.c) = some true ∧
    sees (exec (.bittstLow 5#4 0#4) (start 0#32 0#32 0x7FFF#32)) (·.cc.c) = some false ∧
    sees (exec (.bittstHigh 5#4 15#4) (start 0#32 0#32 0x10000#32)) (·.cc.n) = some true ∧
    sees (exec (.bittstHigh 5#4 1#4) (start 0#32 0#32 0x40000000#32)) (·.cc.n) = some true ∧
    sees (exec (.bittst31 5#4) (start 0#32 0#32 0x7FFFFFFF#32)) (·.cc.n) = some false := by decide

/-- Fields at both ends of the word, and the edges of each. -/
theorem witness_StuffReplacesTheField : (3#4 : Nibble) ≠ 0#4 ∧
    (0 ≤ 7 ∧ 7 < 0 + 8) ∧ ¬(0 ≤ 8 ∧ 8 < 0 + 8) ∧ (24 ≤ 31 ∧ 31 < 24 + 8) ∧ ¬(24 ≤ 23 ∧ 23 < 24 + 8) ∧
    (16 ≤ 16 ∧ 16 < 16 + 16) ∧ ¬(16 ≤ 15 ∧ 15 < 16 + 16) ∧
    runs (exec (.stuffh 3#4 4#4 5#4) (start 7#32 1#32 3#32)) = true := by decide
theorem witness_ExtractTakesTheField : (4#4 : Nibble) ≠ 0#4 ∧
    runs (exec (.extb 3#4 4#4 5#4) (start 7#32 1#32 3#32)) = true ∧
    runs (exec (.exth 3#4 4#4 5#4) (start 7#32 1#32 3#32)) = true := by decide
theorem witness_TruncAndSxtKeepTheLowBits : (3#4 : Nibble) ≠ 0#4 ∧
    runs (exec (.trunc 3#4 0#4) (start 7#32 1#32 3#32)) = true ∧
    runs (exec (.sxt 3#4 1#4) (start 7#32 1#32 3#32)) = true := ⟨by decide, rfl, rfl⟩
theorem witness_LogicalInstructionsClearVAndC : (3#4 : Nibble) ≠ 0#4 ∧ (4#4 : Nibble) ≠ 0#4 ∧
    runs (exec (.and 3#4 4#4) (start 7#32 1#32 3#32)) = true ∧
    runs (exec (.equ 3#4 0#4) (start 7#32 1#32 3#32)) = true := by decide

theorem witness_CoprocessorAccessWhenPresent :
    let s := withCo (start 7#32 0#32 0#32)
    s.config.coMap.getLsbD (15#4 : Nibble).toNat = true ∧ s.config.coMap.getLsbD (0#4 : Nibble).toNat = true ∧
    s.config.priv.coget.getLsbD s.level.toNat = false ∧ s.config.priv.coset.getLsbD s.level.toNat = false := by decide

theorem witness_SpecialAccessIsChecked :
    let s := start 7#32 0#32 0#32
    let p := forbidding s allForbidden
    (s.config.coMap.getLsbD (1#4 : Nibble).toNat = false ∧ s.config.priv.coget.getLsbD s.level.toNat = false ∧
      s.config.priv.coset.getLsbD s.level.toNat = false) ∧
    (p.config.priv.coget.getLsbD p.level.toNat = true ∧ p.config.priv.coset.getLsbD p.level.toNat = true ∧
      p.config.priv.cpuget.getLsbD p.level.toNat = true ∧ p.config.priv.cpuset.getLsbD p.level.toNat = true ∧
      p.config.priv.rtt.getLsbD p.level.toNat = true) ∧
    ((4#4 : Nibble) ≠ 1#4 ∧ (3#4 : Nibble) ≠ 0#4 ∧ s.config.cpuMap.getLsbD (4#4 : Nibble).toNat = false ∧
      s.config.priv.cpuget.getLsbD s.level.toNat = false ∧ s.config.priv.cpuset.getLsbD s.level.toNat = false) := by
  decide

/-- RTT's own mask forbids the word of RTT where CPUGET's does not. -/
theorem test_rtt_mask_forbids_cpuget_0_1 :
    exec (.cpuget 0#4 1#4) (forbidding (start 0#32 0#32 0#32) { allForbidden with cpuget := 0 }) =
      .fault (.priv 0x1110#16) := by rfl

theorem witness_CpuEntriesAreStoredUnchanged :
    let s := start 7#32 0#32 0#32
    (1#4 : Nibble) ≠ 0#4 ∧ (8#4 : Nibble) ≠ 0#4 ∧ s.config.cpuMap.getLsbD (8#4 : Nibble).toNat = true ∧
    (3#4 : Nibble) ≠ 0#4 ∧ s.config.priv.cpuget.getLsbD s.level.toNat = false ∧
    s.config.priv.cpuset.getLsbD s.level.toNat = false := by decide

theorem witness_StatusWordHoldsLevelAndCodes :
    let s := start 7#32 0#32 0#32
    (3#4 : Nibble) ≠ 0#4 ∧ s.config.cpuMap[0] = true ∧ s.config.priv.cpuset.getLsbD s.level.toNat = false ∧
    s.config.priv.cpuget.getLsbD s.level.toNat = false := by decide

theorem witness_RttRestoresPcAndLevel :
    let s := { (start 0#32 0#32 0#32).setCpuReg 1#4 0x1234#32 with prior := 3#4 }
    s.tpc[0] = false ∧ s.config.priv.cpuget.getLsbD s.level.toNat = false ∧
    s.config.priv.rtt.getLsbD s.level.toNat = false := by decide

theorem witness_SignedBranchesFollowTheSwitch :
    (coded true false false true).config.signedCond = .printed ∧
    (conventional (coded true false false true)).config.signedCond = .conventional ∧
    16 ≤ (16#5 : BitVec 5).toNat ∧ 16 ≤ (31#5 : BitVec 5).toNat ∧ (15#5 : BitVec 5).toNat < 16 ∧
    (0#5 : BitVec 5).toNat < 16 := by decide

/-- W6: the two senses differ, and V is 1. -/
theorem witness_CompareThenBranchTable : (5#4 : Nibble) ≠ 0#4 ∧
    (start 0#32 0x80000000#32 1#32).config.signedCond = .printed ∧
    (conventional (start 0#32 0x80000000#32 1#32)).config.signedCond = .conventional ∧
    sees (exec (.cmp 4#4 5#4) (start 0#32 0x80000000#32 1#32)) (·.cc) = some (code false false true true) := by decide

end Sys2Proof.Tests
end

section
/-! The scope statements: a step runs what it decodes, and the addition primitive. -/

namespace Sys2Proof

/-! ## What the second halfword of an instruction decides -/

theorem lengthOf_decodeMemory (I J : Half) :
    Machine.lengthOf (decodeMemory I J) = if f1Field I < 8#4 then 4#32 else 2#32 := by
  unfold decodeMemory
  split
  case h_16 =>
    have hlow : f1Field I < 8#4 := by
      simp only [imp_false] at *
      bv_omega
    simp [hlow, Machine.lengthOf]
  all_goals simp [*, Machine.lengthOf]

theorem lengthOf_decodeRegister (I : Half) : Machine.lengthOf (decodeRegister I) = 2#32 := by
  unfold decodeRegister
  split <;> rfl

theorem lengthOf_decodeBranch (I : Half) : Machine.lengthOf (decodeBranch I) = 2#32 := by
  unfold decodeBranch
  split <;> rfl

/-- The first halfword alone decides the length (30_encoding.md R92). -/
theorem lengthOf_decodeRow (I J : Half) :
    Machine.lengthOf (decodeRow I J) = if isLong I then 4#32 else 2#32 := by
  unfold decodeRow
  split
  -- the Memory Reference, Two Register and Branch Formats; every other major opcode is one row
  case h_1 hop => simp [isLong, hop, lengthOf_decodeMemory]
  case h_15 hop => simp [isLong, hop, lengthOf_decodeRegister]
  case h_16 => simp_all [isLong, lengthOf_decodeBranch]
  all_goals simp [*, isLong, Machine.lengthOf]

theorem isUnassigned_decodeMemory (I J J' : Half) :
    isUnassigned (decodeMemory I J) = isUnassigned (decodeMemory I J') := by
  unfold decodeMemory
  split <;> rfl

theorem isUnassigned_decodeRow (I J J' : Half) :
    isUnassigned (decodeRow I J) = isUnassigned (decodeRow I J') := by
  unfold decodeRow
  split
  case h_1 => exact isUnassigned_decodeMemory I J J'
  all_goals rfl

theorem reservedOperand_decodeMemory (I J J' : Half) :
    reservedOperand (decodeMemory I J) = reservedOperand (decodeMemory I J') := by
  unfold decodeMemory
  split <;> rfl

/-- The first halfword alone decides whether an operand is reserved (60_exceptions.md R311). -/
theorem reservedOperand_decodeRow (I J J' : Half) :
    reservedOperand (decodeRow I J) = reservedOperand (decodeRow I J') := by
  unfold decodeRow
  split
  case h_1 => exact reservedOperand_decodeMemory I J J'
  all_goals rfl

theorem decodeMemory_eq_of_noSecond {I : Half} (J J' : Half)
    (h : 8#4 ≤ f1Field I ∨ isUnassigned (decodeMemory I J) = true) :
    decodeMemory I J' = decodeMemory I J := by
  unfold decodeMemory at *
  split <;> simp_all [isUnassigned]

/-- A two-byte instruction, and an unassigned one, is decoded from its first halfword alone
(30_encoding.md R92, 41_memory_reference.md R157). -/
theorem decodeRow_eq_of_noSecond {I : Half} (J J' : Half)
    (h : isLong I = false ∨ isUnassigned (decodeRow I J) = true) :
    decodeRow I J' = decodeRow I J := by
  unfold decodeRow at *
  split
  -- only the Memory Reference Format and LIL have a second halfword to read
  case h_1 hop => exact decodeMemory_eq_of_noSecond J J' (by simpa [isLong, hop] using h)
  case h_2 hop => simp [isLong, hop, isUnassigned] at h
  all_goals rfl

/-- Whatever stands in the second halfword, the first is decoded to an instruction of the same kind. -/
theorem decode_ok_any_second {I J : Half} {i : Instr} (h : decode I J = .ok i) (J' : Half) :
    decode I J' = .ok (decodeRow I J') ∧ isUnassigned (decodeRow I J') = isUnassigned i := by
  obtain ⟨hres, rfl⟩ := decode_ok.1 h
  exact ⟨decode_ok.2 ⟨reservedOperand_decodeRow I J J' ▸ hres, rfl⟩, isUnassigned_decodeRow I J' J⟩

namespace Machine

/-! ## Fetching -/

/-- A fetch finds the instruction that the two halfwords from pc on decode to. -/
theorem fetch_of_decode {s : State} {i : Instr} (hpc : s.executable s.pc = true)
    (hdec : decode (s.halfAt s.pc) (s.halfAt (s.pc + 2#32)) = .ok i)
    (hsecond : lengthOf i = 4#32 → isUnassigned i = false → s.executable (s.pc + 2#32) = true) :
    fetch s = .ok i := by
  obtain ⟨hfirst, hkind⟩ := decode_ok_any_second hdec 0#16
  have hrow : decodeRow (s.halfAt s.pc) (s.halfAt (s.pc + 2#32)) = i := (decode_ok.1 hdec).2
  by_cases hneeds : isLong (s.halfAt s.pc) = true ∧ isUnassigned i = false
  case pos =>
    obtain ⟨hlong, hassigned⟩ := hneeds
    have hlen : lengthOf i = 4#32 := by rw [← hrow, lengthOf_decodeRow, if_pos hlong]
    simp [fetch, hpc, hfirst, hkind, hlong, hassigned, hsecond hlen hassigned, hdec, fetchedOf]
  case neg =>
    have hsame : decodeRow (s.halfAt s.pc) 0#16 = i := by
      rw [decodeRow_eq_of_noSecond (s.halfAt (s.pc + 2#32)) 0#16 (by grind), hrow]
    simp [fetch, hpc, hfirst, hsame, hneeds]

theorem step_of_fetch {s : State} {i : Instr} (h : fetch s = .ok i) : step s = exec i s := by
  simp [step, h, runFetched]

/-- Settles O1: the fetch finds the decoded instruction, and the step runs what the fetch finds. -/
theorem stepRunsDecodedInstruction : Obligations.StepRunsDecodedInstruction := by
  intro s i hpc hdec hsecond
  exact step_of_fetch (fetch_of_decode hpc hdec hsecond)

/-! ## The addition primitive -/

theorem addc32_sum (a b : Word) (cin : Bool) :
    (addc32 a b cin).1 = BitVec.ofNat 32 (a.toNat + b.toNat + cin.toNat) := rfl

theorem addc32_n (a b : Word) (cin : Bool) : (addc32 a b cin).2.n = (addc32 a b cin).1.msb := rfl

theorem addc32_z (a b : Word) (cin : Bool) :
    (addc32 a b cin).2.z = true ↔ (addc32 a b cin).1 = 0#32 := beq_iff_eq

theorem addc32_v (a b : Word) (cin : Bool) :
    (addc32 a b cin).2.v = true ↔ a.msb = b.msb ∧ (addc32 a b cin).1.msb ≠ a.msb := by
  simp [addc32]

theorem addc32_c (a b : Word) (cin : Bool) :
    (addc32 a b cin).2.c = true ↔ 2 ^ 32 ≤ a.toNat + b.toNat + cin.toNat := decide_eq_true_iff

/-- The carry out of bit 31 is the bit of weight 2^32 of the exact sum. -/
theorem addc32_c_toNat (a b : Word) (cin : Bool) :
    (addc32 a b cin).2.c.toNat = (a.toNat + b.toNat + cin.toNat) / 2 ^ 32 := by
  have hcin := cin.toNat_le
  have ha := a.isLt
  have hb := b.isLt
  cases hc : (addc32 a b cin).2.c with
  | true =>
    have := (addc32_c a b cin).1 hc
    simp only [Bool.toNat_true]
    omega
  | false =>
    have := mt (addc32_c a b cin).2 (by simp [hc])
    simp only [Bool.toNat_false]
    omega

/-- Adding the complement subtracts, and a carry in of 0 borrows one more. -/
theorem addc32_compl_sum (a b : Word) (cin : Bool) :
    (addc32 a (~~~ b) cin).1 = a - b - BitVec.ofNat 32 (1 - cin.toNat) := by
  rw [addc32_sum, BitVec.toNat_not]
  cases cin <;> simp only [Bool.toNat_true, Bool.toNat_false] <;> bv_omega

/-- C = 1 after a subtraction means no borrow. -/
theorem addc32_compl_c (a b : Word) :
    (addc32 a (~~~ b) true).2.c = true ↔ b.toNat ≤ a.toNat := by
  rw [addc32_c, BitVec.toNat_not, Bool.toNat_true]
  have hb := b.isLt
  omega

theorem flagsNZ_n (r : Word) (vc : VC) : (flagsNZ r vc).n = r.msb := rfl

theorem flagsNZ_z (r : Word) (vc : VC) : (flagsNZ r vc).z = true ↔ r = 0#32 := beq_iff_eq

theorem word_msb (r : Word) : r.msb = r[31] := by
  simp [BitVec.msb_eq_getLsbD_last]

/-- Settles O23, clause by clause from the equations of the sum and of each code. -/
theorem additionAndItsCodes : Obligations.AdditionAndItsCodes := by
  intro a b cin
  have hsum : (addc32 a b cin).1 = BitVec.ofNat 32 ((a.toNat + b.toNat + cin.toNat) % 2 ^ 32) := by
    rw [addc32_sum]
    exact BitVec.eq_of_toNat_eq (by simp)
  have hdiff : (addc32 a (~~~ b) true).1 = a - b := by simpa using addc32_compl_sum a b true
  simp only [← word_msb]
  exact ⟨hsum, addc32_n a b cin, addc32_z a b cin, addc32_v a b cin, addc32_c_toNat a b cin, hdiff,
    addc32_compl_c a b, addc32_compl_sum a b cin, fun vc => ⟨flagsNZ_n a vc, flagsNZ_z a vc⟩⟩

end Machine
end Sys2Proof
end

section
/-! The state: what an instruction can change, what every step keeps, and the processor status word. -/

namespace Sys2Proof.Machine

/-! ## What word writes and cpu[ ] writes leave unchanged -/

@[simp] theorem State.writeWord_regs (s : State) (ea v : Word) : (s.writeWord ea v).regs = s.regs := by
  rcases s.writeWord_cases ea v with ⟨-, h⟩ | ⟨-, h⟩ <;> simp [h]

@[simp] theorem State.writeWord_resv (s : State) (ea v : Word) : (s.writeWord ea v).resv = s.resv := by
  rcases s.writeWord_cases ea v with ⟨-, h⟩ | ⟨-, h⟩ <;> simp [h]

@[simp] theorem State.writeWord_cc (s : State) (ea v : Word) : (s.writeWord ea v).cc = s.cc := by
  rcases s.writeWord_cases ea v with ⟨-, h⟩ | ⟨-, h⟩ <;> simp [h]

theorem State.wf_writeWord {s : State} (ea v : Word) (hmem : Memory.wf s.mem = true) :
    Memory.wf (s.writeWord ea v).mem = true := by
  rcases s.writeWord_cases ea v with ⟨-, h⟩ | ⟨-, h⟩ <;> rw [h]
  · exact hmem
  · exact State.wf_setRamWord _ v hmem

/-- A cpu[ ] write is of the processor status word or of a stored entry. -/
theorem State.cpuWrite_cases (s : State) (k : Nibble) (v : Word) :
    (k = 0#4 ∧ s.cpuWrite k v = s.setPsw v) ∨ (k ≠ 0#4 ∧ s.cpuWrite k v = s.setCpuReg k v) := by
  unfold State.cpuWrite
  split
  · next hk => exact .inl ⟨hk, rfl⟩
  · next hk => exact .inr ⟨hk, rfl⟩

@[simp] theorem State.cpuWrite_regs (s : State) (k : Nibble) (v : Word) : (s.cpuWrite k v).regs = s.regs := by
  rcases s.cpuWrite_cases k v with ⟨-, h⟩ | ⟨-, h⟩ <;> simp [h]

@[simp] theorem State.cpuWrite_resv (s : State) (k : Nibble) (v : Word) : (s.cpuWrite k v).resv = s.resv := by
  rcases s.cpuWrite_cases k v with ⟨-, h⟩ | ⟨-, h⟩ <;> simp [h]

@[simp] theorem State.cpuWrite_mem (s : State) (k : Nibble) (v : Word) : (s.cpuWrite k v).mem = s.mem := by
  rcases s.cpuWrite_cases k v with ⟨-, h⟩ | ⟨-, h⟩ <;> simp [h]

@[simp] theorem State.cpuWrite_deviceOut (s : State) (k : Nibble) (v : Word) :
    (s.cpuWrite k v).deviceOut = s.deviceOut := by
  rcases s.cpuWrite_cases k v with ⟨-, h⟩ | ⟨-, h⟩ <;> simp [h]

theorem State.cpuWrite_cc {s : State} {k : Nibble} (hk : k ≠ 0#4) (v : Word) : (s.cpuWrite k v).cc = s.cc := by
  rcases s.cpuWrite_cases k v with ⟨h0, -⟩ | ⟨-, h⟩
  · exact absurd h0 hk
  · simp [h]

/-! ## What an instruction can do -/

/-- The state an instruction has before it writes anything: at most a free value has been drawn. -/
def BeforeWrites (s s' : State) : Prop := s' = s ∨ s' = s.draw

theorem BeforeWrites.pc {s s' : State} (h : BeforeWrites s s') : s'.pc = s.pc := by
  rcases h with rfl | rfl <;> rfl

theorem BeforeWrites.regs {s s' : State} (h : BeforeWrites s s') : s'.regs = s.regs := by
  rcases h with rfl | rfl <;> rfl

theorem BeforeWrites.cc {s s' : State} (h : BeforeWrites s s') : s'.cc = s.cc := by
  rcases h with rfl | rfl <;> rfl

theorem BeforeWrites.resv {s s' : State} (h : BeforeWrites s s') : s'.resv = s.resv := by
  rcases h with rfl | rfl <;> rfl

theorem BeforeWrites.mem {s s' : State} (h : BeforeWrites s s') : s'.mem = s.mem := by
  rcases h with rfl | rfl <;> rfl

theorem BeforeWrites.config {s s' : State} (h : BeforeWrites s s') : s'.config = s.config := by
  rcases h with rfl | rfl <;> rfl

theorem BeforeWrites.deviceOut {s s' : State} (h : BeforeWrites s s') : s'.deviceOut = s.deviceOut := by
  rcases h with rfl | rfl <;> rfl

/-- Every next state that an instruction can answer, by the kind of its effect and with the guard of each kind. -/
inductive Change (i : Instr) (s : State) : State → Prop
  /-- A fault of the instruction takes the trap that the configuration gives it. -/
  | trap {s' t : State} {f : Fault} (hs : BeforeWrites s s') (h : raise s' f = .next t) : Change i s t
  | register {s' : State} (hs : BeforeWrites s s') (v : Word) :
      Change i s ((s'.setReg (destOf i) v).setPc (s.pc + lengthOf i))
  | registerCc {s' : State} (hs : BeforeWrites s s') (hcodes : writesFlags i = true) (v : Word) (cc : Flags) :
      Change i s (((s'.setReg (destOf i) v).setCc cc).setPc (s.pc + lengthOf i))
  /-- LOADL (40_short_memory_reference.md R136). -/
  | reserve {s' : State} (hs : BeforeWrites s s') (hcodes : writesFlags i = true) (a v : Word) (cc : Flags) :
      Change i s ((((s'.setResv (some (wordAlign a))).setReg (destOf i) v).setCc cc).setPc (s.pc + lengthOf i))
  /-- pc takes a new value, and a register may keep the return address; from an even pc the value is even. -/
  | transfer {s' : State} (hs : BeforeWrites s s') (hpc : writesPc i = true) (link target : Word)
      (heven : s.pc[0] = false → target[0] = false) : Change i s ((s'.setReg (destOf i) link).setPc target)
  | returnFromTrap (hpc : writesPc i = true) (hlevel : writesLevel i = true) (heven : s.tpc[0] = false) :
      Change i s { s with level := s.prior, pc := s.tpc }
  | store (hstores : storesToMemory i = true) (ea v : Word) :
      Change i s ((s.writeWord ea v).setPc (s.pc + lengthOf i))
  /-- STOREC, which stores or fails (40_short_memory_reference.md R137). -/
  | storeConditional {stored : State} (hstores : storesToMemory i = true) (hcodes : writesFlags i = true)
      (ea v : Word) (hstored : stored = s ∨ stored = s.writeWord ea v) (cc : Flags) :
      Change i s (((stored.draw.setResv none).setCc cc).setPc (s.pc + lengthOf i))
  | coset {srcx k : Nibble} (hi : i = .coset srcx k) (v : Word) :
      Change i s ((s.setCoReg k v).setPc (s.pc + lengthOf i))
  | cpuset {srcx k : Nibble} (hi : i = .cpuset srcx k) (v : Word) :
      Change i s ((s.cpuWrite k v).setPc (s.pc + lengthOf i))

section shapes

variable {i : Instr} {s s' t : State}

theorem change_of_finishReg {v : Word} (hs : BeforeWrites s s')
    (h : finishReg s' (lengthOf i) (destOf i) v = .next t) : Change i s t := by
  cases h
  rw [hs.pc]
  exact .register hs v

theorem change_of_finishRegCc {v : Word} {cc : Flags} (hs : BeforeWrites s s') (hcodes : writesFlags i = true)
    (h : finishRegCc s' (lengthOf i) (destOf i) v cc = .next t) : Change i s t := by
  cases h
  rw [hs.pc]
  exact .registerCc hs hcodes v cc

theorem change_of_setPc {target : Word} (hs : BeforeWrites s s') (hpc : writesPc i = true) (hdest : destOf i = 0#4)
    (heven : s.pc[0] = false → target[0] = false) : Change i s (s'.setPc target) := by
  simpa [hdest] using Change.transfer hs hpc 0#32 target heven

theorem change_of_finishRegOrPc {v : Word} (hs : BeforeWrites s s') (hpc : destOf i = 0#4 → writesPc i = true)
    (h : finishRegOrPc s' (lengthOf i) (destOf i) v = .next t) : Change i s t := by
  rcases finishRegOrPc_next h with ⟨-, rfl⟩ | ⟨hd, heven, rfl⟩ | ⟨-, -, htrap⟩
  · exact change_of_finishReg hs rfl
  · exact change_of_setPc hs (hpc hd) hd fun _ => heven
  · exact .trap hs htrap

theorem change_of_loadThen {ea : Word} {k : Word → State → Result} (h : loadThen s ea k = .next t)
    (hk : ∀ v s', BeforeWrites s s' → k v s' = .next t → Change i s t) : Change i s t := by
  rcases loadThen_next h with ⟨-, hload⟩ | ⟨-, htrap⟩
  · exact hk _ _ (s.afterRead_cases ea) hload
  · exact .trap (.inl rfl) htrap

/-- LOADS and LOAD, whose zero field loads pc (30_encoding.md R99). -/
theorem change_of_loadRegOrPc {ea : Word} (hpc : destOf i = 0#4 → writesPc i = true)
    (h : loadThen s ea (fun v s' => finishRegOrPc s' (lengthOf i) (destOf i) v) = .next t) : Change i s t :=
  change_of_loadThen h fun _ _ hs hload => change_of_finishRegOrPc hs hpc hload

theorem change_of_loadRegCc {ea : Word} (hcodes : writesFlags i = true)
    (h : loadThen s ea (fun v s' => finishRegCc s' (lengthOf i) (destOf i) v (flagsNZ v (Config.ccLoadVC v))) =
      .next t) : Change i s t :=
  change_of_loadThen h fun _ _ hs hload => change_of_finishRegCc hs hcodes hload

theorem change_of_linkAndJump {target : Word} (hpc : writesPc i = true)
    (h : linkAndJump s (lengthOf i) (destOf i) target = .next t) : Change i s t := by
  rcases linkAndJump_next h with ⟨heven, rfl⟩ | ⟨-, htrap⟩
  · exact .transfer (.inl rfl) hpc _ _ fun _ => heven
  · exact .trap (.inl rfl) htrap

theorem change_of_storeThen {ea v : Word} (hstores : storesToMemory i = true)
    (h : storeThen s (lengthOf i) ea v = .next t) : Change i s t := by
  rcases storeThen_next h with ⟨-, rfl⟩ | ⟨-, htrap⟩
  · exact .store hstores ea v
  · exact .trap (.inl rfl) htrap

end shapes

/-! ### Even addresses (10_state.md R28) -/

theorem even_iff (a : Word) : a[0] = false ↔ a.toNat % 2 = 0 := by
  simp [BitVec.getElem_eq_testBit_toNat]

theorem even_add {a b : Word} (ha : a[0] = false) (hb : b[0] = false) : (a + b)[0] = false := by
  rw [even_iff] at *
  rw [BitVec.toNat_add]
  omega

theorem even_shiftLeft_one (a : Word) : (a <<< 1)[0] = false := by simp

theorem lengthOf_even (i : Instr) : (lengthOf i)[0] = false := by
  unfold lengthOf
  split <;> simp

theorem even_next {s : State} (i : Instr) (h : s.pc[0] = false) : (s.pc + lengthOf i)[0] = false :=
  even_add h (lengthOf_even i)

theorem even_branchTarget {s : State} (disp : Byte) (h : s.pc[0] = false) : (branchTarget s disp)[0] = false :=
  even_add (even_add h (by decide)) (even_shiftLeft_one _)

/-! ### One instruction -/

section instructions

variable {i : Instr} {s t : State}

theorem change_of_branchIf {taken : Bool} {disp : Byte} (hpc : writesPc i = true) (hdest : destOf i = 0#4)
    (h : branchIf taken disp s = .next t) : Change i s t := by
  cases h
  refine change_of_setPc (.inl rfl) hpc hdest fun heven => ?_
  split
  · exact even_branchTarget disp heven
  · exact even_add heven (by decide)

theorem change_execStorec {srcx x : Nibble} (h : execStorec srcx x s = .next t) :
    Change (.storec srcx x) s t := by
  obtain ⟨-, h⟩ := requireNz_next h
  dsimp only at h
  split at h
  · exact .trap (.inr rfl) h
  · cases h
    exact .storeConditional rfl rfl (s.reg x) (regOrZero s srcx) (by split <;> simp) _

theorem change_execCoget {dst src : Nibble} (h : execCoget dst src s = .next t) :
    Change (.coget dst src) s t := by
  unfold execCoget at h
  split at h
  · exact .trap (.inl rfl) h
  · split at h
    · exact .trap (.inl rfl) h
    · exact change_of_finishRegCc (.inr rfl) rfl h

theorem change_execCoset {srcx src : Nibble} (h : execCoset srcx src s = .next t) :
    Change (.coset srcx src) s t := by
  unfold execCoset at h
  split at h
  · exact .trap (.inl rfl) h
  · split at h
    · exact .trap (.inl rfl) h
    · cases h
      exact .coset rfl _

/-- CPUGET, under its own name and as RTT (48_special.md R249, R251). -/
theorem change_execCpuget {src : Nibble} (hlen : lengthOf i = 2#32)
    (hrtt : destOf i = 0#4 → src = 1#4 → writesPc i = true ∧ writesLevel i = true)
    (h : execCpuget (destOf i) src s = .next t) : Change i s t := by
  unfold execCpuget at h
  split at h
  · exact .trap (.inl rfl) h
  split at h
  · next hdst =>
    split at h
    · next hsrc =>
      obtain ⟨hpc, hlevel⟩ := hrtt hdst hsrc
      split at h
      · exact .trap (.inl rfl) h
      · rcases returnFromTrap_next h with ⟨heven, rfl⟩ | ⟨-, htrap⟩
        · exact .returnFromTrap hpc hlevel heven
        · exact .trap (.inl rfl) htrap
    · cases h
  · split at h
    · exact change_of_finishReg (s.afterCpuRead_cases src) (hlen ▸ h)
    · cases h

theorem change_execCpuset {srcx src : Nibble} (h : execCpuset srcx src s = .next t) :
    Change (.cpuset srcx src) s t := by
  unfold execCpuset at h
  split at h
  · exact .trap (.inl rfl) h
  · split at h
    · cases h
      exact .cpuset rfl _
    · cases h

theorem entrySet_entrySet_same (f : Vector Word 15) (k : Nibble) (v w : Word) :
    entrySet (entrySet f k v) k w = entrySet f k w := by
  unfold entrySet
  split
  · rfl
  · ext j hj
    simp only [Vector.getElem_setIfInBounds]
    split <;> rfl

/-- The two instructions of LIW write one register, the second over the first (42_immediate.md R174). -/
theorem change_execLiw {dst : Nibble} {const : Word} (h : execLiw dst const s = .next t) :
    Change (.liw dst const) s t := by
  obtain ⟨hdst, h⟩ := requireNz_next h
  simp only [execLil, finishRegOrPc, if_neg hdst, finishReg, andThen, execOris] at h
  cases (requireNz_next h).2
  have hpc : s.pc + 4#32 + 2#32 = s.pc + 6#32 := by rw [BitVec.add_assoc]; rfl
  simp only [State.setPc, State.setReg, entrySet_entrySet_same, hpc]
  exact .register (.inl rfl) _

theorem change_execBbs {bit : BitVec 5} {disp : Byte} (h : execBbs bit disp s = .next t) :
    Change (.bbs bit disp) s t := by
  unfold execBbs at h
  split at h
  · exact change_of_branchIf rfl rfl h
  · exact change_of_branchIf rfl rfl h

theorem change_execBbr {bit : BitVec 5} {disp : Byte} (h : execBbr bit disp s = .next t) :
    Change (.bbr bit disp) s t := by
  unfold execBbr at h
  split at h
  · exact change_of_branchIf rfl rfl h
  · exact change_of_branchIf rfl rfl h

end instructions

/-- What an instruction can do, said once for all of them: its next state is a Change. -/
theorem exec_change {i : Instr} {s t : State} (h : exec i s = .next t) : Change i s t := by
  cases i
  case move | lea | lis | oris | stuffb | stuffh | plus | clr =>
    exact change_of_finishReg (.inl rfl) (requireNz_next h).2
  case movecc | leacc | addsr | addsru | addc | subb | testr | bittst31 | addi | cmpi | sr | sru | bittstLow | rol =>
    exact change_of_finishRegCc (.inl rfl) rfl h
  case movesl | addsl | extb | exth | sub | trunc | sxt | addsi | equ | sl | bittstHigh | neg | cmp | not =>
    exact change_of_finishRegCc (.inl rfl) rfl (requireNz_next h).2
  case add | and | or =>
    exact change_of_finishRegCc (.inl rfl) rfl (requireNz_next (requireNz_next h).2).2
  case loads | load => exact change_of_loadRegOrPc beq_iff_eq.2 h
  case loadscc | loadcc | tests | test => exact change_of_loadRegCc rfl h
  case lil => exact change_of_finishRegOrPc (.inl rfl) beq_iff_eq.2 h
  case jsrs | jsr | jumps | jump => exact change_of_linkAndJump rfl h
  case br | bns | bzs | bvs | bcs | blt | ble | bleu | bnr | bzr | bvr | bcr | bge | bgt | bgtu | bltu | bne | bgeu
      | beq | nop =>
    exact change_of_branchIf rfl rfl h
  case store => exact change_of_storeThen rfl h
  case stores => exact change_of_storeThen rfl (requireNz_next h).2
  case unassignedMem1 | unassignedMem0 | unassignedTwoReg | unassignedBranch => exact .trap (.inl rfl) h
  case storec => exact change_execStorec h
  case coget => exact change_execCoget h
  case coset => exact change_execCoset h
  case cpuset => exact change_execCpuset h
  case liw => exact change_execLiw h
  case loadl =>
    obtain ⟨-, h⟩ := requireNz_next h
    refine change_of_loadThen h fun v s' hs hload => ?_
    cases hload
    rw [State.setResv_pc, hs.pc]
    exact .reserve hs rfl _ v _
  case adjust =>
    obtain ⟨-, h⟩ := requireNz_next h
    split at h
    · exact change_of_finishReg (.inl rfl) h
    · cases h
  case btrunc =>
    obtain ⟨-, h⟩ := requireNz_next h
    cases h
    exact change_of_setPc (.inl rfl) rfl rfl fun heven =>
      even_add (even_add heven (by decide)) (even_shiftLeft_one _)
  case cpuget =>
    exact change_execCpuget rfl (fun hdst hsrc =>
      ⟨beq_iff_eq.2 hdst, Bool.and_eq_true_iff.2 ⟨beq_iff_eq.2 hdst, beq_iff_eq.2 hsrc⟩⟩) h
  case rtt => exact change_execCpuget rfl (fun _ _ => ⟨rfl, rfl⟩) h
  case bbs => exact change_execBbs h
  case bbr => exact change_execBbr h

/-! ## The invariant (10_state.md R28, 20_memory.md R61, R73) -/

theorem wordAlign_wordAlign (a : Word) : wordAlign (wordAlign a) = wordAlign a := by
  simp only [wordAlign, BitVec.and_assoc, BitVec.and_self]

/-- A trap meets the invariant: its handler is even and the reservation is lost (20_memory.md R75). -/
theorem raise_inv {s t : State} {f : Fault} (hmem : Memory.wf s.mem = true) (h : raise s f = .next t) : Inv t := by
  obtain ⟨handler, -, heven, rfl⟩ := raise_next h
  obtain ⟨hpc, -, -, hresv, -, -, -, -, htrapMem, -⟩ := takeTrap_fields s f handler
  exact ⟨hpc ▸ heven, htrapMem ▸ hmem, fun A hA => by simp [hresv] at hA⟩

theorem Change.inv {i : Instr} {s t : State} (h : Change i s t) (hinv : Inv s) : Inv t := by
  obtain ⟨hpc, hmem, hresv⟩ := hinv
  have hnext := even_next i hpc
  cases h with
  | trap hs h => exact raise_inv (hs.mem ▸ hmem) h
  | register hs | registerCc hs => exact ⟨hnext, hs.mem ▸ hmem, hs.resv ▸ hresv⟩
  | reserve hs _ a =>
    refine ⟨hnext, hs.mem ▸ hmem, fun A hA => ?_⟩
    cases hA
    exact wordAlign_wordAlign a
  | transfer hs _ _ _ heven => exact ⟨heven hpc, hs.mem ▸ hmem, hs.resv ▸ hresv⟩
  | returnFromTrap _ _ heven => exact ⟨heven, hmem, hresv⟩
  | store _ ea v => exact ⟨hnext, State.wf_writeWord ea v hmem, by simpa using hresv⟩
  | storeConditional _ _ ea v hstored =>
    refine ⟨hnext, ?_, fun A hA => by simp at hA⟩
    rcases hstored with rfl | rfl
    · exact hmem
    · exact State.wf_writeWord ea v hmem
  | coset => exact ⟨hnext, hmem, hresv⟩
  | cpuset => exact ⟨hnext, by simpa using hmem, by simpa using hresv⟩

/-- Settles O10: every next state of a fetched instruction is a Change, and a fault of the fetch a trap. -/
theorem stepKeepsInvariant : Obligations.StepKeepsInvariant := by
  intro s t hinv hstep
  have ⟨_, hmem, _⟩ := hinv
  rcases step_next hstep with ⟨i, -, hexec⟩ | ⟨f, -, htrap⟩
  · exact (exec_change hexec).inv hinv
  · exact raise_inv hmem htrap

/-! ## What each listed kind of instruction alone writes -/

/-- A trap keeps the registers, the codes, memory and the record of device stores (60_exceptions.md R305; log
entry 16). -/
theorem raise_kept {s s' t : State} {f : Fault} (hs : BeforeWrites s s') (h : raise s' f = .next t) :
    t.regs = s.regs ∧ t.cc = s.cc ∧ t.mem = s.mem ∧ t.deviceOut = s.deviceOut := by
  obtain ⟨handler, -, -, rfl⟩ := raise_next h
  obtain ⟨-, -, -, -, hregs, hcc, -, -, hmem, -, -, hdevice⟩ := takeTrap_fields s' f handler
  exact ⟨hregs.trans hs.regs, hcc.trans hs.cc, hmem.trans hs.mem, hdevice.trans hs.deviceOut⟩

/-- Where every fault is terminal, none leads to a next state. -/
theorem raise_ne_next {s s' t : State} {f : Fault} (hs : BeforeWrites s s') (hterminal : TrapsTerminal s) :
    raise s' f ≠ .next t := by
  have hnone : trapVector s'.config.traps f = none := hs.config ▸ hterminal f
  simp [raise_terminal hnone]

section frames

variable {i : Instr} {s t : State}

theorem Change.cc (h : Change i s t) (hi : writesFlags i = false) : t.cc = s.cc := by
  cases h with
  | trap hs htrap => exact (raise_kept hs htrap).2.1
  | register hs | transfer hs => exact hs.cc
  | registerCc _ hcodes | reserve _ hcodes | storeConditional _ hcodes => simp [hi] at hcodes
  | returnFromTrap | coset => rfl
  | store => simp
  | cpuset hcpuset =>
    subst hcpuset
    exact State.cpuWrite_cc (by simpa [writesFlags] using hi) _

theorem Change.memory (h : Change i s t) (hi : storesToMemory i = false) :
    t.mem = s.mem ∧ t.deviceOut = s.deviceOut := by
  cases h with
  | trap hs htrap => exact (raise_kept hs htrap).2.2
  | register hs | registerCc hs | reserve hs | transfer hs => exact ⟨hs.mem, hs.deviceOut⟩
  | returnFromTrap | coset => exact ⟨rfl, rfl⟩
  | store hstores | storeConditional hstores => simp [hi] at hstores
  | cpuset => simp

theorem Change.pc (h : Change i s t) (hterminal : TrapsTerminal s) (hi : writesPc i = false) :
    t.pc = s.pc + lengthOf i := by
  cases h with
  | trap hs htrap => exact absurd htrap (raise_ne_next hs hterminal)
  | transfer _ hpc | returnFromTrap hpc => simp [hi] at hpc
  | register | registerCc | reserve | store | storeConditional | coset | cpuset => rfl

theorem Change.reg (h : Change i s t) {n : Nibble} (hn : n ≠ destOf i) : t.reg n = s.reg n := by
  suffices hentry : entryGet t.regs n = entryGet s.regs n from hentry
  cases h with
  | trap hs htrap => rw [(raise_kept hs htrap).1]
  | register hs v | registerCc hs _ v | reserve hs _ _ v | transfer hs _ v =>
    exact (entryGet_entrySet_other _ hn v).trans (congrArg (entryGet · n) hs.regs)
  | returnFromTrap | coset => rfl
  | store | cpuset => simp
  | storeConditional _ _ _ _ hstored => rcases hstored with rfl | rfl <;> simp

end frames

/-- Settles O13: a Change that writes the codes carries the guard that its instruction does. -/
theorem onlyListedInstructionsWriteCodes : Obligations.OnlyListedInstructionsWriteCodes :=
  fun _ _ _ hi hexec => (exec_change hexec).cc hi

/-- Settles O14: memory as a whole is the same, so every byte reads as it did. -/
theorem onlyStoresWriteMemory : Obligations.OnlyStoresWriteMemory := by
  intro i s t hi hexec
  obtain ⟨hmem, hdevice⟩ := (exec_change hexec).memory hi
  exact ⟨fun a => congrArg (Memory.read · a.toNat) hmem, hdevice⟩

/-- Settles O15: a Change that moves pc otherwise is a jump or a trap, and no fault here has a handler. -/
theorem onlyListedInstructionsLeaveSequence : Obligations.OnlyListedInstructionsLeaveSequence :=
  fun _ _ _ hterminal hi hexec => (exec_change hexec).pc hterminal hi

/-- Settles O17: a Change writes at most the destination register, and a trap none. -/
theorem onlyDestinationRegisterWritten : Obligations.OnlyDestinationRegisterWritten :=
  fun _ _ _ _ hexec _ hn => (exec_change hexec).reg hn

/-! ## Odd targets -/

theorem takeTrap_trapEntry (s : State) (f : Fault) (handler : Word) :
    TrapEntry s (takeTrap s f handler) f handler := by
  obtain ⟨hpc, hprior, hlevel, hresv, hregs, hcc, hbcd, hco, hmem, hconfig, -, hdevice⟩ := takeTrap_fields s f handler
  refine ⟨hpc, takeTrap_tpc s f handler, hprior, hlevel, hresv, ?_, fun k => takeTrap_cpu_other s f handler, ?_, hcc,
    hbcd, ?_, ?_, hconfig, hdevice⟩
  · rintro addr rfl
    exact takeTrap_tma s addr handler
  · exact fun n _ => congrArg (entryGet · n) hregs
  · exact fun k => congrArg (fun co : Vector Word 16 => co[k.toNat]?.getD 0#32) hco
  · exact fun a => congrArg (Memory.read · a.toNat) hmem

/-- What raising a fault gives is what Raises says of it. -/
theorem raise_raises (s : State) (f : Fault) : Raises s (raise s f) f := by
  unfold Raises
  split
  · next hv => exact raise_terminal hv
  · next handler hv =>
    split
    · next hodd => simp [raise, hv, hodd]
    · next heven => exact ⟨_, raise_handled hv (by simpa using heven), takeTrap_trapEntry s f handler⟩

theorem jump_odd_raises {s s' : State} {target : Word} (h : target[0] = true) :
    Raises s (jump s s' target) (.pcOdd target) :=
  jump_odd h ▸ raise_raises s _

theorem execLil_zero (k : BitVec 24) (s : State) : execLil 0#4 k s = jump s s (k.signExtend 32) := by
  simp [execLil, finishRegOrPc]

/-- CPUGET 0,1, where it is allowed, is the return from trap (48_special.md R249, R251). -/
theorem execCpuget_rtt {s : State} (hcpuget : s.privDenied s.config.priv.cpuget = false)
    (hrtt : s.privDenied s.config.priv.rtt = false) : execCpuget 0#4 1#4 s = returnFromTrap s := by
  simp [execCpuget, hcpuget, hrtt]

/-- Settles O43: each of these instructions jumps to the value it is given, and an odd one is raised. -/
theorem oddTargetsRaisePcOdd : Obligations.OddTargetsRaisePcOdd := by
  refine ⟨fun s dst x hodd => ⟨jump_odd_raises hodd, jump_odd_raises hodd⟩,
    fun s dst x disp hodd => ⟨jump_odd_raises hodd, jump_odd_raises hodd⟩, fun s k hodd => ?_,
    fun s hodd hcpuget hrtt => ?_⟩
  · have htarget : (k.signExtend 32)[0] = true := by simpa [BitVec.getElem_signExtend] using hodd
    have hraises : Raises s (execLil 0#4 k s) (.pcOdd (k.signExtend 32)) :=
      execLil_zero k s ▸ jump_odd_raises htarget
    exact hraises
  · have hreturn := execCpuget_rtt hcpuget hrtt
    have hraises : Raises s (execCpuget 0#4 1#4 s) (.pcOdd s.tpc) := hreturn ▸ jump_odd_raises hodd
    exact ⟨hraises, hraises⟩

/-! ## The processor status word -/

theorem cpuDefined_psw {cfg : Config} (h : cfg.cpuMap[0] = true) : cpuDefined cfg 0#4 = true := by
  simp [cpuDefined, h]

/-- CPUSET of the status word, where it is defined and allowed (48_special.md R250). -/
theorem execCpuset_psw {s : State} (hdef : s.config.cpuMap[0] = true)
    (hpriv : s.privDenied s.config.priv.cpuset = false) (r : Nibble) :
    execCpuset r 0#4 s = .next ((s.setPsw (regOrZero s r)).setPc (s.pc + 2#32)) := by
  simp [execCpuset, hpriv, cpuDefined_psw hdef, State.cpuWrite]

/-- CPUGET of the status word, where it is defined and allowed (48_special.md R249). -/
theorem execCpuget_psw {s : State} {r : Nibble} (hr : r ≠ 0#4) (hdef : s.config.cpuMap[0] = true)
    (hpriv : s.privDenied s.config.priv.cpuget = false) :
    execCpuget r 0#4 s = finishReg s.draw 2#32 r (s.cpuRead 0#4) := by
  simp [execCpuget, hpriv, hr, cpuDefined_psw hdef, State.afterCpuRead]

/-- Bit `i` of a status word read: a bit of the status word where the layout has one, else a free value. -/
theorem getLsbD_cpuRead_psw (s : State) (i : Nat) :
    (s.cpuRead 0#4).getLsbD i =
      (s.pswWord.getLsbD i || ((Config.pswFree s.draws).getLsbD i && pswUnimplemented.getLsbD i)) := by
  simp [State.cpuRead]

/-- Each field of a status word read is where the layout has it (10_state.md R42). -/
theorem cpuRead_psw_fields (s : State) :
    (s.cpuRead 0#4).extractLsb' 28 4 = s.level ∧ (s.cpuRead 0#4).extractLsb' 24 4 = s.prior ∧
    (s.cpuRead 0#4).extractLsb' 8 8 = s.bcd ∧ (s.cpuRead 0#4).extractLsb' 0 4 = flagBits s.cc := by
  refine ⟨?_, ?_, ?_, ?_⟩ <;> refine BitVec.eq_of_getLsbD_eq fun i hi => ?_ <;>
    simp only [BitVec.getLsbD_extractLsb', getLsbD_cpuRead_psw, State.pswWord, BitVec.getLsbD_append] <;>
    interval_cases i <;> simp [pswUnimplemented]

theorem flagBits_bits (f : Flags) :
    f = { n := (flagBits f).getLsbD 3, z := (flagBits f).getLsbD 2, v := (flagBits f).getLsbD 1,
          c := (flagBits f).getLsbD 0 } := by
  obtain ⟨_ | _, _ | _, _ | _, _ | _⟩ := f <;> rfl

theorem flags_of_flagBits {w : Word} {f : Flags} (h : w.extractLsb' 0 4 = flagBits f) :
    f = { n := w[3], z := w[2], v := w[1], c := w[0] } := by
  rw [flagBits_bits f, ← h]
  simp

/-- Settles O56: a write sets the fields of the layout, and a read finds each field in its place. -/
theorem statusWordHoldsLevelAndCodes : Obligations.StatusWordHoldsLevelAndCodes := by
  refine ⟨fun s r hdef hpriv => ?_, fun s r hr hdef hpriv => ?_⟩
  · exact ⟨_, execCpuset_psw hdef hpriv r, rfl, rfl, rfl, rfl, rfl, fun _ _ => rfl, rfl, fun _ => rfl, fun _ => rfl,
      fun _ => rfl, rfl, rfl⟩
  · obtain ⟨t, hrun, heffect⟩ : Runs (exec (.cpuget r 0#4) s) fun t =>
        RegisterEffect s t r (s.cpuRead 0#4) s.cc (s.pc + 2#32) :=
      ⟨_, execCpuget_psw hr hdef hpriv, registerEffect_of (.inr rfl) r _ _⟩
    obtain ⟨hlevel, hprior, hbcd, hcc⟩ := cpuRead_psw_fields s
    have hread : t.reg r = s.cpuRead 0#4 := heffect.1.1 hr
    refine ⟨t, hrun, ?_⟩
    simp only [hread]
    exact ⟨heffect, hlevel, hprior, hbcd, flags_of_flagBits hcc⟩

/-! ## Reset -/

/-- Settles O11: pc is 0, memory is empty and there is no reservation. -/
theorem resetMeetsInvariant : Obligations.ResetMeetsInvariant :=
  ⟨rfl, rfl, fun _ h => nomatch h⟩

theorem entryGet_replicate_zero (k : Nibble) : entryGet (Vector.replicate 15 0#32) k = 0#32 := by
  by_cases hk : k = 0#4
  · rw [hk, entryGet_zero]
  · simp [entryGet, hk, nibble_pred_lt hk]

/-- The one region of the flat memory map holds every word and admits a fetch (log entry 3). -/
theorem executable_reset (a : Word) : State.reset.executable a = true := by
  have := (wordAlign a).isLt
  simp [State.executable, State.region, State.reset, Config.base, Config.flatRam, regionOf, this]

/-- Settles O12: the files hold zeros, memory is empty, and flat RAM holds every address. -/
theorem resetLeavesTheLoggedValues : Obligations.ResetLeavesTheLoggedValues := by
  refine ⟨rfl, rfl, rfl, rfl, rfl, rfl, entryGet_replicate_zero, entryGet_replicate_zero, fun k => ?_, fun _ => rfl,
    executable_reset, fun f => ?_⟩
  · have := k.isLt
    simp [State.coReg, State.reset, this]
  · cases f <;> rfl

end Sys2Proof.Machine
end

section
/-! Stores and loads: what a load does with the word it reads, which bytes make that word, and that a stored word
is read back. -/

namespace Sys2Proof.Machine

/-- An outcome that runs to a state with `P` runs to one with whatever `P` implies. -/
theorem Runs.imp {o : Result} {P Q : State → Prop} (h : Runs o P) (hPQ : ∀ t, P t → Q t) : Runs o Q :=
  let ⟨t, ho, hP⟩ := h
  ⟨t, ho, hPQ t hP⟩

/-! ## What a load does with the word it reads -/

/-- N and Z of a word, V and C as given, in the terms of the statements. -/
theorem flagsNZ_eq_codesOf (r : Word) (vc : VC) : flagsNZ r vc = codesOf r vc.v vc.c := rfl

/-- The register and the codes N and Z of a register effect whose codes are those of the value. -/
theorem RegisterEffect.reg_and_codes {s t : State} {dst : Nibble} {w pc : Word} {cv cc : Bool}
    (h : RegisterEffect s t dst w (codesOf w cv cc) pc) :
    (dst ≠ 0#4 → t.reg dst = w) ∧ t.cc.n = w.msb ∧ t.cc.z = decide (w = 0#32) := by
  obtain ⟨⟨hreg, -⟩, hcc, -⟩ := h
  exact ⟨hreg, hcc ▸ rfl, hcc ▸ rfl⟩

section loads

variable {s : State} {ea : Word}

/-- LOADS and LOAD into a register (40_short_memory_reference.md R133, 41_memory_reference.md R153). -/
theorem loadRegOrPc_runs_of_reg (hr : s.readable ea = true) {dst : Nibble} (hdst : dst ≠ 0#4) (len : Word) :
    Runs (loadThen s ea fun v s' => finishRegOrPc s' len dst v) fun t =>
      RegisterEffect s t dst (s.readWord ea) s.cc (s.pc + len) := by
  rw [loadThen_readable hr, finishRegOrPc, if_neg hdst, finishReg, afterRead_pc]
  exact ⟨_, rfl, registerEffect_of (s.afterRead_cases ea) dst _ _⟩

/-- LOADS and LOAD of an even word into pc. -/
theorem loadRegOrPc_runs_of_even (hr : s.readable ea = true) (heven : (s.readWord ea)[0] = false) (len : Word) :
    Runs (loadThen s ea fun v s' => finishRegOrPc s' len 0#4 v) fun t => PcEffect s t (s.readWord ea) := by
  rw [loadThen_readable hr, finishRegOrPc, if_pos rfl, jump_even heven]
  refine ⟨_, rfl, ?_⟩
  rcases s.afterRead_cases ea with h | h <;> rw [h] <;>
    exact ⟨fun _ _ => rfl, rfl, rfl, rfl, fun _ => rfl, ⟨rfl, rfl, rfl, fun _ => rfl, fun _ => rfl⟩, rfl, rfl⟩

/-- LOADSCC and LOADCC (40_short_memory_reference.md R134, 41_memory_reference.md R154). -/
theorem loadRegCc_runs (hr : s.readable ea = true) (len : Word) (dst : Nibble) :
    Runs (loadThen s ea fun v s' => finishRegCc s' len dst v (flagsNZ v (Config.ccLoadVC v))) fun t =>
      RegisterEffect s t dst (s.readWord ea)
        (codesOf (s.readWord ea) (Config.ccLoadVC (s.readWord ea)).v (Config.ccLoadVC (s.readWord ea)).c)
        (s.pc + len) := by
  rw [loadThen_readable hr, finishRegCc, afterRead_pc, flagsNZ_eq_codesOf]
  exact ⟨_, rfl, registerCcEffect_of (s.afterRead_cases ea) dst _ _ _⟩

/-- LOADL has the effect of LOADSCC on the state that holds the reservation (40_short_memory_reference.md R136). -/
theorem execLoadl_runs {x : Nibble} (hx : x ≠ 0#4) (hr : s.readable (s.reg x) = true) (dst : Nibble) :
    Runs (execLoadl dst x s) fun t =>
      RegisterEffect (s.setResv (some (wordAlign (s.reg x)))) t dst (s.readWord (s.reg x))
        (codesOf (s.readWord (s.reg x)) (Config.ccLoadVC (s.readWord (s.reg x))).v
          (Config.ccLoadVC (s.readWord (s.reg x))).c)
        (s.pc + 2#32) := by
  rw [execLoadl, requireNz_ne hx, loadThen_readable hr, finishRegCc, State.setResv_pc, afterRead_pc,
    flagsNZ_eq_codesOf]
  refine ⟨_, rfl, registerCcEffect_of ?_ dst _ _ _⟩
  rcases s.afterRead_cases (s.reg x) with h | h <;> rw [h]
  · exact .inl rfl
  · exact .inr rfl

end loads

/-! ## The bytes of a word (20_memory.md R61) -/

theorem wordAlign_add {k : Word} (hk : wordAlign k = 0#32) (a : Word) :
    wordAlign (wordAlign a + k) = wordAlign a := by
  have hdisjoint : wordAlign a &&& k = 0#32 := by
    rw [wordAlign, BitVec.and_assoc, BitVec.and_comm 0xFFFFFFFC#32, ← wordAlign, hk, BitVec.and_zero]
  rw [BitVec.add_eq_or_of_and_eq_zero _ _ hdisjoint]
  calc wordAlign (wordAlign a ||| k) = wordAlign (wordAlign a) ||| wordAlign k := BitVec.and_or_distrib_right
    _ = wordAlign a := by rw [hk, BitVec.or_zero, wordAlign_wordAlign]

/-- Two states whose bytes agree in the word that holds `ea` have the same word there. -/
theorem State.ramWord_congr {t u : State} {ea : Word}
    (hbytes : ∀ a, wordAlign a = wordAlign ea → u.byteAt a = t.byteAt a) :
    u.ramWord (wordAlign ea) = t.ramWord (wordAlign ea) := by
  have hbyte (k : Word) (hk : wordAlign k = 0#32) : u.byteAt (wordAlign ea + k) = t.byteAt (wordAlign ea + k) :=
    hbytes _ (wordAlign_add hk ea)
  rw [State.ramWord, State.ramWord, hbyte 3#32 rfl, hbyte 2#32 rfl, hbyte 1#32 rfl,
    hbytes _ (wordAlign_wordAlign ea)]

/-- A fetch reads the low half of a word at its address (20_memory.md R62). -/
theorem State.halfAt_eq_low (s : State) (A : Word) : s.halfAt A = (s.ramWord A).extractLsb' 0 16 := by
  refine BitVec.eq_of_getLsbD_eq fun i hi => ?_
  simp only [State.halfAt, State.ramWord, BitVec.getLsbD_append, BitVec.getLsbD_extractLsb']
  interval_cases i <;> rfl

/-- A fetch reads the high half of a word two bytes further on (20_memory.md R62). -/
theorem State.halfAt_eq_high (s : State) (A : Word) :
    s.halfAt (A + 2#32) = (s.ramWord A).extractLsb' 16 16 := by
  have hnext : A + 2#32 + 1#32 = A + 3#32 := BitVec.add_assoc A 2#32 1#32
  refine BitVec.eq_of_getLsbD_eq fun i hi => ?_
  simp only [State.halfAt, hnext, State.ramWord, BitVec.getLsbD_append, BitVec.getLsbD_extractLsb']
  interval_cases i <;> rfl

/-- The memory map alone says whether a word lies in a device region (20_memory.md R68). -/
theorem State.isDevice_congr {s u : State} {a b : Word} (hconfig : u.config = s.config)
    (hword : wordAlign a = wordAlign b) : u.isDevice a = s.isDevice b := by
  simp only [State.isDevice, State.region, hconfig, hword]

theorem State.readWord_of_ram {s : State} {ea : Word} (h : s.isDevice ea = false) :
    s.readWord ea = s.ramWord (wordAlign ea) := by
  simp [State.readWord, h]

theorem State.writeWord_of_ram {s : State} {ea : Word} (h : s.isDevice ea = false) (v : Word) :
    s.writeWord ea v = s.setRamWord (wordAlign ea) v := by
  simp [State.writeWord, h]

/-! ## A stored word is read back (20_memory.md R70, R77) -/

theorem storeThen_writable {s : State} {ea : Word} (h : s.writable ea = true) (len v : Word) :
    storeThen s len ea v = .next ((s.writeWord ea v).setPc (s.pc + len)) := by
  simp [storeThen, h]

/-- Memory holds a stored word for as long as its bytes are the stored ones. -/
theorem State.ramWord_of_stored {s u : State} {ea v pc : Word} (hmem : Memory.wf s.mem = true)
    (hram : s.isDevice ea = false)
    (hbytes : ∀ a, wordAlign a = wordAlign ea → u.byteAt a = ((s.writeWord ea v).setPc pc).byteAt a) :
    u.ramWord (wordAlign ea) = v := by
  calc u.ramWord (wordAlign ea) = (s.writeWord ea v).ramWord (wordAlign ea) := State.ramWord_congr hbytes
    _ = v := by rw [State.writeWord_of_ram hram, State.ramWord_setRamWord _ v hmem]

section reads

variable {u : State} {ea v : Word}

theorem loadRegOrPc_returns (hr : u.readable ea = true) (hv : u.readWord ea = v) (len : Word) {dst : Nibble}
    (hdst : dst ≠ 0#4) :
    Runs (loadThen u ea fun w u' => finishRegOrPc u' len dst w) fun t => t.reg dst = v :=
  (loadRegOrPc_runs_of_reg hr hdst len).imp fun _ ⟨⟨hreg, _⟩, _⟩ => (hreg hdst).trans hv

theorem loadRegOrPc_jumps (hr : u.readable ea = true) (hv : u.readWord ea = v) (len : Word)
    (heven : v[0] = false) :
    Runs (loadThen u ea fun w u' => finishRegOrPc u' len 0#4 w) fun t => t.pc = v := by
  subst hv
  exact (loadRegOrPc_runs_of_even hr heven len).imp fun _ ⟨_, _, hpc, _⟩ => hpc

theorem loadRegCc_returns (hr : u.readable ea = true) (hv : u.readWord ea = v) (len : Word) (dst : Nibble) :
    Runs (loadThen u ea fun w u' => finishRegCc u' len dst w (flagsNZ w (Config.ccLoadVC w))) fun t =>
      (dst ≠ 0#4 → t.reg dst = v) ∧ t.cc.n = v.msb ∧ t.cc.z = decide (v = 0#32) := by
  subst hv
  exact (loadRegCc_runs hr len dst).imp fun _ h => h.reg_and_codes

theorem execLoadl_returns {y : Nibble} (hy : y ≠ 0#4) (hr : u.readable (u.reg y) = true)
    (hv : u.readWord (u.reg y) = v) (dst : Nibble) :
    Runs (execLoadl dst y u) fun t =>
      (dst ≠ 0#4 → t.reg dst = v) ∧ t.cc.n = v.msb ∧ t.cc.z = decide (v = 0#32) := by
  subst hv
  exact (execLoadl_runs hy hr dst).imp fun _ h => h.reg_and_codes

end reads

/-- Every way of reading the word at `A` gives `v`: a fetch of its halves and each of the five loads. -/
def ReadsAt (u : State) (A v : Word) : Prop :=
  (u.halfAt A = v.extractLsb' 0 16 ∧ u.halfAt (A + 2#32) = v.extractLsb' 16 16) ∧
  (∀ dst y : Nibble, wordAlign (eaShort u y) = A → u.readable (eaShort u y) = true →
    (dst ≠ 0#4 → Runs (exec (.loads dst y) u) fun w => w.reg dst = v) ∧
    (v[0] = false → Runs (exec (.loads 0#4 y) u) fun w => w.pc = v) ∧
    (Runs (exec (.loadscc dst y) u) fun w =>
      (dst ≠ 0#4 → w.reg dst = v) ∧ w.cc.n = v.msb ∧ w.cc.z = decide (v = 0#32)) ∧
    (y ≠ 0#4 → Runs (exec (.loadl dst y) u) fun w =>
      (dst ≠ 0#4 → w.reg dst = v) ∧ w.cc.n = v.msb ∧ w.cc.z = decide (v = 0#32))) ∧
  (∀ (dst y : Nibble) (disp : Half), wordAlign (eaLong u y disp) = A → u.readable (eaLong u y disp) = true →
    (dst ≠ 0#4 → Runs (exec (.load dst y disp) u) fun w => w.reg dst = v) ∧
    (v[0] = false → Runs (exec (.load 0#4 y disp) u) fun w => w.pc = v) ∧
    (Runs (exec (.loadcc dst y disp) u) fun w =>
      (dst ≠ 0#4 → w.reg dst = v) ∧ w.cc.n = v.msb ∧ w.cc.z = decide (v = 0#32)))

/-- Where the word at `A` is `v` and no device answers for it, every way of reading it gives `v`. -/
theorem readsAt_of_ramWord {u : State} {A v : Word} (hword : u.ramWord A = v)
    (hram : ∀ ea, wordAlign ea = A → u.isDevice ea = false) : ReadsAt u A v := by
  have hread (ea : Word) (hea : wordAlign ea = A) : u.readWord ea = v := by
    rw [State.readWord_of_ram (hram ea hea), hea, hword]
  refine ⟨⟨?_, ?_⟩, fun dst y hea hr => ?_, fun dst y disp hea hr => ?_⟩
  · rw [State.halfAt_eq_low, hword]
  · rw [State.halfAt_eq_high, hword]
  · have hv := hread _ hea
    refine ⟨loadRegOrPc_returns hr hv 2#32, loadRegOrPc_jumps hr hv 2#32, loadRegCc_returns hr hv 2#32 dst,
      fun hy => ?_⟩
    have hreg : eaShort u y = u.reg y := if_neg hy
    rw [hreg] at hr hv
    exact execLoadl_returns hy hr hv dst
  · have hv := hread _ hea
    exact ⟨loadRegOrPc_returns hr hv 4#32, loadRegOrPc_jumps hr hv 4#32, loadRegCc_returns hr hv 4#32 dst⟩

/-- After a store into memory, every way of reading the word gives it back while its bytes stay as stored. -/
theorem storeThen_readsAt {s : State} {ea : Word} (len v : Word) (hmem : Memory.wf s.mem = true)
    (hw : s.writable ea = true) (hram : s.isDevice ea = false) :
    Runs (storeThen s len ea v) fun t => ∀ u : State, u.config = s.config →
      (∀ a, wordAlign a = wordAlign ea → u.byteAt a = t.byteAt a) → ReadsAt u (wordAlign ea) v := by
  refine ⟨_, storeThen_writable hw len v, fun u hconfig hbytes => ?_⟩
  have hword : u.ramWord (wordAlign ea) = v := State.ramWord_of_stored hmem hram hbytes
  exact readsAt_of_ramWord hword fun a ha => (State.isDevice_congr hconfig ha).trans hram

/-- Settles O41: a store puts the word into memory, and every read of the word takes it from there. -/
theorem storeThenLoadReturnsTheWord : Obligations.StoreThenLoadReturnsTheWord := by
  intro s srcx x disp hmem
  refine ⟨fun hx hw hram => ?_, fun hw hram => ?_⟩
  · have hstores : exec (.stores srcx x) s = storeThen s 2#32 (s.reg x) (regOrZero s srcx) := requireNz_ne hx
    rw [hstores]
    exact storeThen_readsAt 2#32 (regOrZero s srcx) hmem hw hram
  · exact storeThen_readsAt 4#32 (regOrZero s srcx) hmem hw hram

end Sys2Proof.Machine
end

section
/-! The encoding: the decoder and the encoder undo each other, the opcode map, the reserved operands, the derived
names, the small constants and the unassigned encodings. -/

namespace Sys2Proof

/-! ## Match and mask on the fields of a halfword (30_encoding.md R90, R91) -/

@[simp] theorem nibble_and_fifteen (n : Nibble) : n &&& 15#4 = n :=
  BitVec.and_allOnes

/-- A match under a mask is a match of each field under the mask's field. -/
theorem and_eq_iff_fields {I mask v : Half} : I &&& mask = v ↔
    (f1Field I &&& mask.extractLsb' 12 4 = v.extractLsb' 12 4 ∧
      f2Field I &&& mask.extractLsb' 8 4 = v.extractLsb' 8 4) ∧
    opField I &&& mask.extractLsb' 4 4 = v.extractLsb' 4 4 ∧
    dstField I &&& mask.extractLsb' 0 4 = v.extractLsb' 0 4 := by
  constructor
  · rintro rfl
    simp [f1Field, f2Field, opField, dstField, BitVec.extractLsb'_and]
  · rintro ⟨⟨hf1, hf2⟩, hop, hdst⟩
    rw [← halfOf_fields (I &&& mask), ← halfOf_fields v]
    simp only [f1Field, f2Field, opField, dstField, BitVec.extractLsb'_and] at *
    rw [hf1, hf2, hop, hdst]

theorem nibble_lt_eight_iff (n : Nibble) : n < 8#4 ↔ n &&& 8#4 = 0#4 := by
  revert n
  decide

/-- The 32-bit forms by match and mask: LIL, and `op` = 1111 with `I[15]` = 0 (R92). -/
theorem isLong_iff_mask (I : Half) :
    isLong I = true ↔ I &&& 0x00F0#16 = 0x00E0#16 ∨ I &&& 0x80F0#16 = 0x00F0#16 := by
  simp [isLong, and_eq_iff_fields, nibble_lt_eight_iff, and_comm]

/-! ## What the decoder answers -/

theorem decode_reserved {I J : Half} {m : String} {f : Field} :
    decode I J = .reserved m f ↔ reservedOperand (decodeRow I J) = some (m, f) := by
  unfold decode
  split <;> simp_all

/-- There is no third answer: the row or a refusal. -/
theorem decode_cases (I J : Half) :
    decode I J = .ok (decodeRow I J) ∨ ∃ m f, decode I J = .reserved m f := by
  unfold decode
  split
  · next m f _ => exact .inr ⟨m, f, rfl⟩
  · exact .inl rfl

theorem firstZero_cons_zero (f : Field) (l : List (Field × Nibble)) : firstZero ((f, 0#4) :: l) = some f := by
  simp [firstZero]

theorem firstZero_cons_ne {n : Nibble} (hn : n ≠ 0#4) (f : Field) (l : List (Field × Nibble)) :
    firstZero ((f, n) :: l) = firstZero l := by
  simp [firstZero, hn]

/-- A field is named where one is zero. -/
theorem firstZero_eq_none_iff {l : List (Field × Nibble)} :
    firstZero l = none ↔ ∀ p ∈ l, p.2 ≠ 0#4 := by
  induction l with
  | nil => simp [firstZero]
  | cons p l ih =>
    obtain ⟨f, n⟩ := p
    by_cases hn : n = 0#4
    · simp [hn, firstZero_cons_zero]
    · simp [hn, firstZero_cons_ne, ih]

/-- The field named is zero. -/
theorem mem_of_firstZero {l : List (Field × Nibble)} {f : Field} (h : firstZero l = some f) :
    (f, 0#4) ∈ l := by
  induction l with
  | nil => cases h
  | cons p l ih =>
    obtain ⟨g, n⟩ := p
    by_cases hn : n = 0#4
    · simp_all [firstZero_cons_zero]
    · simp_all [firstZero_cons_ne]

theorem refusal_none_iff {l : List (Field × Nibble)} {m : String} :
    (firstZero l).map (m, ·) = none ↔ (l.map Prod.snd).all (· != 0#4) = true := by
  simp [firstZero_eq_none_iff]

/-- A refusal names the mnemonic of the row and a field that is zero. -/
theorem zero_of_refusal {l : List (Field × Nibble)} {n m : String} {f : Field}
    (h : (firstZero l).map (n, ·) = some (m, f)) : n = m ∧ (f, 0#4) ∈ l := by
  obtain ⟨g, hzero, heq⟩ := Option.map_eq_some_iff.1 h
  cases heq
  exact ⟨rfl, mem_of_firstZero hzero⟩

/-- Where a field is zero there is a refusal of the row's mnemonic. -/
theorem refusal_of_zero {l : List (Field × Nibble)} {m : String} (h : ∃ p ∈ l, p.2 = 0#4) :
    ∃ f, (firstZero l).map (m, ·) = some (m, f) := by
  obtain ⟨p, hp, hzero⟩ := h
  cases hfirst : firstZero l with
  | none => exact absurd hzero (firstZero_eq_none_iff.1 hfirst p hp)
  | some f => exact ⟨f, rfl⟩

/-- The decoder refuses a machine instruction where it is not well formed (R96, R115). -/
theorem reservedOperand_eq_none_iff {i : Instr} (h : expansion i = [i]) :
    reservedOperand i = none ↔ i.wellFormed = true := by
  cases i
  case move | lea | stores | loadl | storec | lis | oris | movesl | addsl | stuffb | stuffh | extb | exth | add | sub
      | trunc | sxt | btrunc | addsi | and | or | equ | adjust | plus =>
    exact refusal_none_iff
  case clr | sl | not | liw | bittstHigh | neg | cmp => cases h
  all_goals exact iff_of_true rfl rfl

/-! ## Decoding an encoding (R92, R95, R117) -/

/-- The words of a name are those of the machine instructions it stands for (R117, R118, R121). -/
theorem spelling (i : Instr) : Laws.Spelling.Statement i := by
  cases i
  case liw dst const => exact Laws.Spelling.liw dst const
  case bbs bit disp => exact Laws.Spelling.bbs bit disp
  case bbr bit disp => exact Laws.Spelling.bbr bit disp
  all_goals rfl

theorem encode_of_expansion {i j : Instr} (h : expansion i = [j]) : encode i = encode j := by
  have hwords := spelling i
  simpa [Laws.Spelling.Statement, h] using hwords.symm

/-- What a name stands for is a machine instruction, well formed where the name is. -/
theorem machine_of_expansion {i j : Instr} (hwf : i.wellFormed = true) (h : expansion i = [j]) :
    expansion j = [j] ∧ j.wellFormed = true := by
  cases i
  case bittstHigh r s =>
    cases h
    exact ⟨rfl, by simp_all [Instr.wellFormed, Instr.nzFields]⟩
  case liw => cases h
  case bbs | bbr =>
    obtain rfl := List.singleton_inj.1 h
    split <;> exact ⟨rfl, rfl⟩
  all_goals
    cases h
    exact ⟨rfl, hwf⟩

/-- The halfwords of a machine instruction select its row again. -/
theorem decodeRow_encode {i : Instr} (h : expansion i = [i]) :
    (∃ I, encode i = [I] ∧ isLong I = false ∧ decodeRow I 0#16 = i) ∨
    (∃ I J, encode i = [I, J] ∧ isLong I = true ∧ decodeRow I J = i) := by
  cases i
  case move | movecc | loads | loadscc | jsrs | stores | loadl | storec =>
    exact .inl ⟨_, rfl, by simp [isLong], by simp [decodeRow, decodeMemory]⟩
  case lea | leacc | load | loadcc | jsr | store | unassignedMem1 | unassignedMem0 =>
    exact .inr ⟨_, _, rfl, by simp [isLong], by simp [decodeRow, decodeMemory]⟩
  case lil => exact .inr ⟨_, _, rfl, by simp [isLong], by simp [decodeRow]⟩
  case lis | oris | movesl | addsl | addsr | addsru | stuffb | stuffh | extb | exth | add | sub =>
    exact .inl ⟨_, rfl, by simp [isLong], by simp [decodeRow]⟩
  case trunc | sxt | btrunc | addsi | and | or | equ | addc | subb | adjust | plus | coget | coset | cpuget | cpuset
      | unassignedTwoReg =>
    exact .inl ⟨_, rfl, by simp [isLong], by simp [decodeRow, decodeRegister]⟩
  case br | bns | bzs | bvs | bcs | blt | ble | bleu | bnr | bzr | bvr | bcr | bge | bgt | bgtu | unassignedBranch =>
    exact .inl ⟨_, rfl, by simp [isLong], by simp [decodeRow, decodeBranch]⟩
  case bbs | bbr =>
    have hself := List.singleton_inj.1 h
    split at hself <;> cases hself
  all_goals cases h

theorem decodeBytes_short {I : Half} {i : Instr} (hlong : isLong I = false) (hdec : decode I 0#16 = .ok i)
    (rest : List Byte) : decodeBytes (bytesOf [I] ++ rest) = .ok i rest := by
  simp [bytesOf, decodeBytes, hdec, hlong]

theorem decodeBytes_long {I J : Half} {i : Instr} (hlong : isLong I = true) (hdec : decode I J = .ok i)
    (rest : List Byte) : decodeBytes (bytesOf [I, J] ++ rest) = .ok i rest := by
  obtain ⟨hfirst, -⟩ := decode_ok_any_second hdec 0#16
  simp [bytesOf, decodeBytes, hfirst, hdec, hlong]

theorem decodeBytes_encode {i : Instr} (hwf : i.wellFormed = true) (h : expansion i = [i]) (rest : List Byte) :
    decodeBytes (bytesOf (encode i) ++ rest) = .ok i rest := by
  have hres : reservedOperand i = none := (reservedOperand_eq_none_iff h).2 hwf
  rcases decodeRow_encode h with ⟨I, hwords, hlong, hrow⟩ | ⟨I, J, hwords, hlong, hrow⟩
  · rw [hwords]
    exact decodeBytes_short hlong (decode_ok.2 ⟨hrow ▸ hres, hrow⟩) rest
  · rw [hwords]
    exact decodeBytes_long hlong (decode_ok.2 ⟨hrow ▸ hres, hrow⟩) rest

theorem bytesOf_append (ws vs : List Half) : bytesOf (ws ++ vs) = bytesOf ws ++ bytesOf vs := by
  induction ws with
  | nil => rfl
  | cons w ws ih => simp [bytesOf, ih]

/-- Settles O3: a machine instruction's halfwords select its row again, a derived name has the halfwords of its base
instruction, and LIW those of two instructions. -/
theorem decodeOfEncodeIsTheInstruction : Obligations.DecodeOfEncodeIsTheInstruction := by
  refine ⟨fun i rest hwf h => decodeBytes_encode hwf h rest, fun i j rest hwf h => ?_,
    fun dst const rest hdst => ?_⟩
  · obtain ⟨hj, hjwf⟩ := machine_of_expansion hwf h
    rw [encode_of_expansion h]
    exact decodeBytes_encode hjwf hj rest
  · have hwords : encode (.liw dst const) =
        encode (.lil dst (const.extractLsb' 8 24)) ++ encode (.oris dst (const.extractLsb' 0 8)) :=
      (Laws.Spelling.liw dst const).symm
    have horis : (Instr.oris dst (const.extractLsb' 0 8)).wellFormed = true := by
      simp [Instr.wellFormed, Instr.nzFields, hdst]
    rw [hwords, bytesOf_append, List.append_assoc]
    exact ⟨_, decodeBytes_encode rfl rfl _, decodeBytes_encode horis rfl rest⟩

/-! ## Encoding what was decoded -/

/-- The halfwords that a decoded row stands for: the second is kept where the row has one (log entry 30). -/
def wordsOf (I J : Half) (i : Instr) : List Half :=
  if Machine.lengthOf i = 4#32 then [I, if isUnassigned i = true then 0#16 else J] else [I]

theorem head?_wordsOf (I J : Half) (i : Instr) : (wordsOf I J i).head? = some I := by
  unfold wordsOf
  split <;> rfl

theorem nibble_cases (n : Nibble) : n = 15#4 ∨ n = 14#4 ∨ n = 13#4 ∨ n = 12#4 ∨ n = 11#4 ∨ n = 10#4 ∨ n = 9#4 ∨
    n = 8#4 ∨ n = 7#4 ∨ n = 6#4 ∨ n = 5#4 ∨ n = 4#4 ∨ n = 3#4 ∨ n = 2#4 ∨ n = 1#4 ∨ n = 0#4 := by
  revert n
  decide

/-- Each value of `op2` under `op` = 1111 is a row that puts it back (R110). -/
theorem encode_decodeMemory {I : Half} (hop : opField I = 15#4) (J : Half) :
    encode (decodeMemory I J) = wordsOf I J (decodeMemory I J) := by
  have hI := halfOf_fields I
  rw [hop] at hI
  rcases nibble_cases (f1Field I) with h | h | h | h | h | h | h | h | h | h | h | h | h | h | h | h <;>
    rw [h] at hI <;> simp [decodeMemory, h, encode, hI, wordsOf, Machine.lengthOf, isUnassigned]

/-- Each value of `op2` under `op` = 0001 is a row that puts it back (R111). -/
theorem encode_decodeRegister {I : Half} (hop : opField I = 1#4) (J : Half) :
    encode (decodeRegister I) = wordsOf I J (decodeRegister I) := by
  have hI := halfOf_fields I
  rw [hop] at hI
  rcases nibble_cases (f1Field I) with h | h | h | h | h | h | h | h | h | h | h | h | h | h | h | h <;>
    rw [h] at hI <;> simp [decodeRegister, h, encode, hI, wordsOf, Machine.lengthOf]

/-- Each value of `cond` under `op` = 0000 is a row that puts it back (R112). -/
theorem encode_decodeBranch {I : Half} (hop : opField I = 0#4) (J : Half) :
    encode (decodeBranch I) = wordsOf I J (decodeBranch I) := by
  have hI := halfOfByte_fields I
  rw [hop] at hI
  rcases nibble_cases (dstField I) with h | h | h | h | h | h | h | h | h | h | h | h | h | h | h | h <;>
    rw [h] at hI <;> simp [decodeBranch, h, encode, hI, wordsOf, Machine.lengthOf]

/-- Each row puts back the fields of the first halfword, and the second where it keeps one (R92, R95). -/
theorem encode_decodeRow (I J : Half) : encode (decodeRow I J) = wordsOf I J (decodeRow I J) := by
  have hfields := halfOf_fields I
  have hconst := halfOfByte_fields I
  unfold decodeRow
  split
  case h_1 hop => exact encode_decodeMemory hop J
  case h_15 hop => exact encode_decodeRegister hop J
  case h_16 =>
    have hop : opField I = 0#4 := by
      simp only [imp_false] at *
      bv_omega
    exact encode_decodeBranch hop J
  all_goals
    next hop =>
    rw [hop] at hfields hconst
    simp [encode, hfields, hconst, wordsOf, Machine.lengthOf, isUnassigned]

theorem expansion_decodeMemory (I J : Half) : expansion (decodeMemory I J) = [decodeMemory I J] := by
  unfold decodeMemory
  split <;> rfl

theorem expansion_decodeRegister (I : Half) : expansion (decodeRegister I) = [decodeRegister I] := by
  unfold decodeRegister
  split <;> rfl

theorem expansion_decodeBranch (I : Half) : expansion (decodeBranch I) = [decodeBranch I] := by
  unfold decodeBranch
  split <;> rfl

/-- The decoder answers no derived name (log entry 19). -/
theorem expansion_decodeRow (I J : Half) : expansion (decodeRow I J) = [decodeRow I J] := by
  unfold decodeRow
  split
  case h_1 => exact expansion_decodeMemory I J
  case h_15 => exact expansion_decodeRegister I
  case h_16 => exact expansion_decodeBranch I
  all_goals rfl

/-- Settles O5: each row keeps every field of the first halfword, and is a machine instruction that no check refused. -/
theorem encodeOfDecodeIsTheWords : Obligations.EncodeOfDecodeIsTheWords := by
  intro I J i hdec
  obtain ⟨hres, rfl⟩ := decode_ok.1 hdec
  have hmachine := expansion_decodeRow I J
  exact ⟨encode_decodeRow I J, (reservedOperand_eq_none_iff hmachine).1 hres, hmachine⟩

/-! ## The opcode map (R92, R110 to R113) -/

/-- Settles O6: a match fixes the fields that the decoder selects by, table by table. -/
theorem opcodeMapSelectsEachRow : Obligations.OpcodeMapSelectsEachRow := by
  intro I J
  and_intros
  -- R110, the Memory Reference Formats
  iterate 16
    · intro h
      obtain ⟨⟨hf1, -⟩, hop, -⟩ := and_eq_iff_fields.1 h
      simp only [nibble_and_fifteen, BitVec.reduceExtractLsb'] at hf1 hop
      simp [decodeRow, hop, decodeMemory, hf1, dstField, f2Field]
  -- R113, a row for each of the other values of `op`
  iterate 13
    · intro h
      obtain ⟨-, hop, -⟩ := and_eq_iff_fields.1 h
      simp only [nibble_and_fifteen, BitVec.reduceExtractLsb'] at hop
      simp [decodeRow, hop, dstField, f1Field, f2Field, constField]
  -- R111, the Short Constant, Two Register and Special Formats
  iterate 16
    · intro h
      obtain ⟨⟨hf1, -⟩, hop, -⟩ := and_eq_iff_fields.1 h
      simp only [nibble_and_fifteen, BitVec.reduceExtractLsb'] at hf1 hop
      simp [decodeRow, hop, decodeRegister, hf1, dstField, f2Field]
  -- R112, the Branch Format
  iterate 16
    · intro h
      obtain ⟨-, hop, hdst⟩ := and_eq_iff_fields.1 h
      simp only [nibble_and_fifteen, BitVec.reduceExtractLsb'] at hop hdst
      simp [decodeRow, hop, decodeBranch, hdst, constField]
  · rw [lengthOf_decodeRow]
    simp only [isLong_iff_mask]
  · exact decode_cases I J

/-! ## Reserved operands (R115) -/

/-- The row of R115 for a mnemonic and a field. -/
def listedRow (m : String) (f : Field) : Option (Half × Half × String × Field) :=
  Machine.reservedRows.find? (·.2.2 == (m, f))

theorem listed_of_listedRow {I v mask : Half} {m : String} {f : Field}
    (hrow : listedRow m f = some (v, mask, m, f)) (hmatch : I &&& mask = v) :
    ∃ v mask, (v, mask, m, f) ∈ Machine.reservedRows ∧ I &&& mask = v :=
  ⟨v, mask, List.mem_of_find?_eq_some hrow, hmatch⟩

/-- A refused operand is a listed one: the halfword of the row has the zero field that the refusal names. -/
theorem listed_of_reservedOperand {i : Instr} {I : Half} {m : String} {f : Field} (hI : (encode i).head? = some I)
    (h : reservedOperand i = some (m, f)) :
    ∃ v mask, (v, mask, m, f) ∈ Machine.reservedRows ∧ I &&& mask = v := by
  cases i
  case move | lea | stores | loadl | storec | lis | oris | movesl | addsl | stuffb | stuffh | extb | exth | sub
      | trunc | sxt | btrunc | addsi | equ | adjust | plus =>
    obtain ⟨rfl, hzero⟩ := zero_of_refusal h
    cases List.mem_singleton.1 hzero
    cases hI
    exact listed_of_listedRow rfl (by simp [and_eq_iff_fields])
  case add | and | or =>
    obtain ⟨rfl, hzero⟩ := zero_of_refusal h
    cases hI
    rcases List.mem_pair.1 hzero with hfield | hfield <;> cases hfield
    · exact listed_of_listedRow rfl (by simp [and_eq_iff_fields])
    · exact listed_of_listedRow rfl (by simp [and_eq_iff_fields])
  all_goals cases h

/-- A listed operand is refused: a match fixes the row and makes one of its fields zero. -/
theorem reservedOperand_of_listed (I J : Half) : ∀ row ∈ Machine.reservedRows, I &&& row.2.1 = row.1 →
    ∃ f', reservedOperand (decodeRow I J) = some (row.2.2.1, f') := by
  simp only [Machine.reservedRows, List.forall_mem_cons, and_eq_iff_fields]
  and_intros
  iterate 27
    · rintro ⟨⟨hf1, hf2⟩, hop, hdst⟩
      simp only [nibble_and_fifteen, BitVec.and_zero, BitVec.reduceExtractLsb'] at hf1 hf2 hop hdst
      simp only [decodeRow, hop, decodeMemory, decodeRegister, hf1, reservedOperand]
      exact refusal_of_zero (by simp [hf2, hdst])
  · simp

/-- Settles O7: refused operands are listed, and listed ones refused. -/
theorem reservedEncodingsAreExactlyThoseListed : Obligations.ReservedEncodingsAreExactlyThoseListed := by
  refine fun I J => ⟨fun m f hdec => ?_, fun v mask m f hrow hmatch => ?_⟩
  · have hhead : (encode (decodeRow I J)).head? = some I := by rw [encode_decodeRow, head?_wordsOf]
    exact listed_of_reservedOperand hhead (decode_reserved.1 hdec)
  · obtain ⟨f', hres⟩ := reservedOperand_of_listed I J _ hrow hmatch
    exact ⟨f', decode_reserved.2 hres⟩

/-! ## Derived names (R118) -/

/-- Settles O4: each name stands for one machine instruction, whose halfwords are its own. -/
theorem derivedNamesAreSpellings : Obligations.DerivedNamesAreSpellings := by
  unfold Obligations.DerivedNamesAreSpellings
  and_intros
  all_goals
    intros
    exact encode_of_expansion rfl

namespace Machine

/-! ## Small constants (R105 to R107) -/

theorem shiftCount_range (f : Nibble) : 1 ≤ shiftCount f ∧ shiftCount f ≤ 16 := by
  have hlt := f.isLt
  unfold shiftCount
  split
  · decide
  · bv_omega

theorem bitCount_range (f : Nibble) : 1 ≤ bitCount f ∧ bitCount f ≤ 16 := shiftCount_range f

theorem shortConst_toInt (f : Nibble) : (shortConst f).toInt = if f = 0#4 then 8 else f.toInt := by
  unfold shortConst
  split
  · rfl
  · exact BitVec.toInt_signExtend_of_le (by decide)

/-- Settles O9: the counts by their range, ADDSI's constant by its value, which is 0 for no field. -/
theorem smallConstantsAsTheRulesSay : Obligations.SmallConstantsAsTheRulesSay := by
  refine ⟨fun f => ⟨rfl, shiftCount_range f⟩, fun f => ⟨rfl, bitCount_range f⟩, fun f => ⟨shortConst_toInt f, ?_⟩⟩
  rw [shortConst_toInt]
  split
  · decide
  · next hf =>
    have hlow := BitVec.le_toInt f
    have hhigh := BitVec.toInt_lt (x := f)
    have hne : f.toInt ≠ 0 := fun h => hf (BitVec.eq_of_toInt_eq h)
    norm_num at hlow hhigh
    omega

/-! ## Zero fields (R96, R102) -/

/-- Settles O19: every meaning checks its fields before it reads the state, and of two fields the second where the
first is not zero. -/
theorem zeroInNonzeroFieldIsRefused : Obligations.ZeroInNonzeroFieldIsRefused := by
  intro s a b c d
  exact ⟨rfl, rfl, rfl, rfl, rfl, rfl, rfl, rfl, rfl, rfl, rfl, rfl, rfl, rfl,
    fun hb => (requireNz_ne hb).trans requireNz_zero, rfl, rfl, rfl, rfl, rfl, rfl,
    fun hb => (requireNz_ne hb).trans requireNz_zero, rfl,
    fun hb => (requireNz_ne hb).trans requireNz_zero, rfl, rfl, rfl⟩

/-! ## Unassigned encodings (R114) -/

/-- An unassigned encoding raises F_ILLEGAL of its first halfword (60_exceptions.md R301). -/
theorem exec_unassigned {i : Instr} {I : Half} (s : State) (hi : isUnassigned i = true)
    (hI : (encode i).head? = some I) : exec i s = raise s (.illegal I) := by
  cases i
  case unassignedMem1 | unassignedMem0 | unassignedTwoReg | unassignedBranch =>
    cases hI
    rfl
  all_goals cases hi

/-- The four unassigned encodings by match and mask. -/
theorem isUnassigned_of_mask {I : Half} (J : Half) (h : I &&& 0xF0F0#16 = 0x10F0#16 ∨ I &&& 0xF0F0#16 = 0x00F0#16 ∨
      I &&& 0xF0F0#16 = 0x8010#16 ∨ I &&& 0x00FF#16 = 0x0008#16) : isUnassigned (decodeRow I J) = true := by
  simp only [and_eq_iff_fields, BitVec.reduceExtractLsb', nibble_and_fifteen, BitVec.and_zero, true_and,
    and_true] at h
  rcases h with ⟨hf1, hop⟩ | ⟨hf1, hop⟩ | ⟨hf1, hop⟩ | ⟨hop, hdst⟩
  · simp [decodeRow, hop, decodeMemory, hf1, isUnassigned]
  · simp [decodeRow, hop, decodeMemory, hf1, isUnassigned]
  · simp [decodeRow, hop, decodeRegister, hf1, isUnassigned]
  · simp [decodeRow, hop, decodeBranch, hdst, isUnassigned]

theorem reservedOperand_unassigned {i : Instr} (hi : isUnassigned i = true) : reservedOperand i = none := by
  cases i
  case unassignedMem1 | unassignedMem0 | unassignedTwoReg | unassignedBranch => rfl
  all_goals cases hi

/-- Settles O20: the words decode to an unassigned row, and an unassigned row raises F_ILLEGAL of its word. -/
theorem unassignedEncodingsRaiseIllegal : Obligations.UnassignedEncodingsRaiseIllegal := by
  refine ⟨fun s I J hmask => ?_, fun i s I hi hI => ?_⟩
  · have hi := isUnassigned_of_mask J hmask
    have hhead : (encode (decodeRow I J)).head? = some I := by rw [encode_decodeRow, head?_wordsOf]
    refine ⟨_, decode_ok.2 ⟨reservedOperand_unassigned hi, rfl⟩, ?_⟩
    exact exec_unassigned s hi hhead ▸ raise_raises s (.illegal I)
  · rw [exec_unassigned s hi hI]
    exact ⟨fun hnone => raise_terminal hnone, fun h hsome heven =>
      ⟨_, raise_handled hsome heven, takeTrap_trapEntry s (.illegal I) h⟩⟩

end Machine
end Sys2Proof
end

section
/-! Short and long memory references: copies of the effective address, loads, stores, STOREC and subroutine calls. -/

namespace Sys2Proof.Machine

/-! ## Words of the examples -/

/-- Settles O8: the fields of each word select the row of its instruction, and no field that must not be zero is. -/
theorem printedWordsDecode : Obligations.PrintedWordsDecode := by
  unfold Obligations.PrintedWordsDecode
  and_intros
  all_goals exact decode_ok.2 ⟨rfl, rfl⟩

/-! ## Copies of the effective address -/

/-- Settles O30: both write the effective address into the register that their checked field names. -/
theorem moveAndLeaCopyTheAddress : Obligations.MoveAndLeaCopyTheAddress := by
  refine ⟨fun s dst x hdst => ?_, fun s dst x disp hdst => ?_⟩
  · have hmove : exec (.move dst x) s = finishReg s 2#32 dst (eaShort s x) := requireNz_ne hdst
    exact hmove ▸ finishReg_runs s 2#32 dst _
  · have hlea : exec (.lea dst x disp) s = finishReg s 4#32 dst (eaLong s x disp) := requireNz_ne hdst
    exact hlea ▸ finishReg_runs s 4#32 dst _

/-- The codes of `NZ00` are those of the value with V and C cleared (10_state.md R34). -/
theorem flagsNZ00_eq_codesOf (r : Word) : flagsNZ00 r = codesOf r false false := rfl

theorem execMovecc_runs (s : State) (dst x : Nibble) :
    Runs (execMovecc dst x s) fun t =>
      RegisterEffect s t dst (eaShort s x) (codesOf (eaShort s x) false false) (s.pc + 2#32) :=
  flagsNZ00_eq_codesOf (eaShort s x) ▸ finishRegCc_runs s 2#32 dst _ _

/-- Settles O31: the three names are one instruction, and N, its value's sign, is bit 31. -/
theorem moveccSetsSignAndZero : Obligations.MoveccSetsSignAndZero := by
  intro s dst x v
  have hzero := execMovecc_runs s 0#4 x
  refine ⟨execMovecc_runs s dst x, hzero, hzero.imp fun t heffect => ⟨heffect, ?_⟩⟩
  obtain ⟨-, hcc, -⟩ := heffect
  rw [hcc]
  exact word_msb v

/-! ## Loads -/

/-- A fault says the same of the state that the reads left as of the state before them. -/
theorem raise_raises_of_beforeWrites {s s' : State} (hs : BeforeWrites s s') (f : Fault) :
    Raises s (raise s' f) f := by
  rcases hs with rfl | rfl
  · exact raise_raises _ f
  · exact raise_raises s.draw f

/-- LOADS and LOAD of an odd word into pc (10_state.md R28). -/
theorem loadRegOrPc_raises_of_odd {s : State} {ea : Word} (hr : s.readable ea = true)
    (hodd : (s.readWord ea)[0] = true) (len : Word) :
    Raises s (loadThen s ea fun v s' => finishRegOrPc s' len 0#4 v) (.pcOdd (s.readWord ea)) := by
  rw [loadThen_readable hr, finishRegOrPc, if_pos rfl, jump_odd hodd]
  exact raise_raises_of_beforeWrites (s.afterRead_cases ea) _

/-- Settles O35: an even word is taken into pc, and an odd one is raised. -/
theorem loadsWithoutRegisterJump : Obligations.LoadsWithoutRegisterJump :=
  ⟨fun _ _ hr => ⟨fun heven => loadRegOrPc_runs_of_even hr heven 2#32,
      fun hodd => loadRegOrPc_raises_of_odd hr hodd 2#32⟩,
    fun _ _ _ hr => ⟨fun heven => loadRegOrPc_runs_of_even hr heven 4#32,
      fun hodd => loadRegOrPc_raises_of_odd hr hodd 4#32⟩⟩

/-- Settles O34: a load whose field names a register writes the word read into it; `wordLoaded` is `readWord` with its
definitions written out. -/
theorem loadsReadTheAlignedWord : Obligations.LoadsReadTheAlignedWord :=
  ⟨fun _ _ _ hdst hr => loadRegOrPc_runs_of_reg hr hdst 2#32,
    fun _ _ _ _ hdst hr => loadRegOrPc_runs_of_reg hr hdst 4#32⟩

/-- Settles O36: TESTS and TEST are LOADSCC and LOADCC with no register to write. -/
theorem loadsWithCodesSetThem : Obligations.LoadsWithCodesSetThem :=
  ⟨fun _ dst _ hr => ⟨loadRegCc_runs hr 2#32 dst, loadRegCc_runs hr 2#32 0#4⟩,
    fun _ dst _ _ hr => ⟨loadRegCc_runs hr 4#32 dst, loadRegCc_runs hr 4#32 0#4⟩⟩

/-- Settles O37: LOADL loads in the state that already holds the reservation. -/
theorem loadlSetsTheReservation : Obligations.LoadlSetsTheReservation := by
  intro s dst x hx hr
  refine (execLoadl_runs hx hr dst).imp fun t heffect => ?_
  obtain ⟨hreg, hcc, hpc, hresv, hmem, hspecial, hplatform⟩ := heffect
  exact ⟨hresv, hreg, hcc, hpc, hmem, hspecial, hplatform⟩

/-! ## Stores -/

/-- What a word write and going on do, from any state that differs from `s` in the count of draws only: a device
receives the word, or memory does. -/
theorem writeWord_effect {s s' : State} (hs : BeforeWrites s s') (hmem : Memory.wf s.mem = true) (ea v pc : Word) :
    if s.isDevice ea = true then DeviceStoreEffect s ((s'.writeWord ea v).setPc pc) (wordAlign ea) v pc
    else StoreEffect s ((s'.writeWord ea v).setPc pc) (wordAlign ea) v pc := by
  rw [← State.isDevice_congr hs.config rfl]
  rcases s'.writeWord_cases ea v with ⟨hdevice, hwrite⟩ | ⟨hram, hwrite⟩ <;> rw [hwrite]
  · rw [if_pos hdevice]
    rcases hs with rfl | rfl <;>
      exact ⟨rfl, fun _ => rfl, fun _ _ => rfl, rfl, rfl, rfl, ⟨rfl, rfl, rfl, fun _ => rfl, fun _ => rfl⟩, rfl⟩
  · rw [if_neg (by simp [hram])]
    have hwritten := State.memWritten_setRamWord (s := s') (wordAlign ea) v (hs.mem ▸ hmem)
    rcases hs with rfl | rfl <;>
      exact ⟨hwritten, by simp [RegsKept, SpecialKept, CpuKept, CoKept, PlatformKept]⟩

theorem storeThen_runs {s : State} {ea : Word} (hw : s.writable ea = true) (hmem : Memory.wf s.mem = true)
    (len v : Word) :
    Runs (storeThen s len ea v) fun t =>
      if s.isDevice ea = true then DeviceStoreEffect s t (wordAlign ea) v (s.pc + len)
      else StoreEffect s t (wordAlign ea) v (s.pc + len) :=
  ⟨_, storeThen_writable hw len v, writeWord_effect (.inl rfl) hmem ea v _⟩

/-- Settles O38: both stores write the word of `srcx`, or 0, at the effective address. -/
theorem storesWriteTheAlignedWord : Obligations.StoresWriteTheAlignedWord := by
  refine ⟨fun s srcx x hx hw hmem => ?_, fun s srcx x disp hw hmem => ?_, fun s x disp => rfl⟩
  · have hstores : exec (.stores srcx x) s = storeThen s 2#32 (s.reg x) (regOrZero s srcx) := requireNz_ne hx
    exact hstores ▸ storeThen_runs hw hmem 2#32 (regOrZero s srcx)
  · exact storeThen_runs hw hmem 4#32 (regOrZero s srcx)

/-! ## STOREC -/

/-- A STOREC succeeds where its word is reserved and the draw is favourable (20_memory.md R74). -/
theorem storecOk_iff (s : State) (ea : Word) :
    storecOk s ea = true ↔ s.resv = some (wordAlign ea) ∧ Config.storecDraw s.draws = true := by
  simp [storecOk]

/-- The state in which a STOREC with the given outcome writes its word: the reservation is lost and V reports. -/
def State.storecReported (s : State) (ok : Bool) : State :=
  { s with resv := none, cc := codesOf 1#32 (if ok then !s.config.storecVFail else s.config.storecVFail) false }

/-- A word write touches neither the count of draws nor the reservation nor the codes. -/
theorem State.writeWord_storecReported (s : State) (ok : Bool) (ea v : Word) :
    (((s.writeWord ea v).draw.setResv none).setCc (flagsStorec s.config.storecVFail ok)) =
      (s.storecReported ok).draw.writeWord ea v := by
  have hsame : (s.storecReported ok).draw.isDevice ea = s.isDevice ea := State.isDevice_congr rfl rfl
  cases hdevice : s.isDevice ea <;> simp only [State.writeWord, hsame, hdevice] <;> rfl

section storec

variable {s : State} {srcx x : Nibble}

theorem execStorec_runs_of_failure (hx : x ≠ 0#4) (hfail : storecOk s (s.reg x) = false) :
    Runs (execStorec srcx x s) fun t => PcEffect (s.storecReported false) t (s.pc + 2#32) := by
  rw [execStorec, requireNz_ne hx]
  simp only [hfail]
  exact ⟨_, rfl, fun _ _ => rfl, rfl, rfl, rfl, fun _ => rfl, ⟨rfl, rfl, rfl, fun _ => rfl, fun _ => rfl⟩, rfl, rfl⟩

theorem execStorec_runs_of_success (hx : x ≠ 0#4) (hmem : Memory.wf s.mem = true)
    (hok : storecOk s (s.reg x) = true) (hw : s.writable (s.reg x) = true) :
    Runs (execStorec srcx x s) fun t =>
      if s.isDevice (s.reg x) = true then
        DeviceStoreEffect (s.storecReported true) t (wordAlign (s.reg x)) (regOrZero s srcx) (s.pc + 2#32)
      else StoreEffect (s.storecReported true) t (wordAlign (s.reg x)) (regOrZero s srcx) (s.pc + 2#32) := by
  rw [execStorec, requireNz_ne hx]
  simp only [hok, hw, if_true, State.writeWord_storecReported]
  exact ⟨_, rfl, writeWord_effect (s := s.storecReported true) (.inr rfl) hmem _ _ _⟩

theorem execStorec_raises_bus (hx : x ≠ 0#4) (hok : storecOk s (s.reg x) = true)
    (hw : s.writable (s.reg x) = false) : Raises s (execStorec srcx x s) (.bus (wordAlign (s.reg x))) := by
  have hraise : execStorec srcx x s = raise s.draw (.bus (wordAlign (s.reg x))) := by
    rw [execStorec, requireNz_ne hx]
    simp [hok, hw]
  exact hraise ▸ raise_raises_of_beforeWrites (.inr rfl) _

end storec

/-- Settles O39: the reservation and the draw decide the outcome, and only a success needs the word writable. -/
theorem storecReportsItsOutcome : Obligations.StorecReportsItsOutcome := by
  intro s srcx x hx hmem A v failed base stored
  have hfailed (h : ¬ (s.resv = some A ∧ Config.storecDraw s.draws = true)) : failed :=
    execStorec_runs_of_failure hx (by simpa using mt (storecOk_iff s (s.reg x)).1 h)
  have hok (hresv : s.resv = some A) (hdraw : Config.storecDraw s.draws = true) : storecOk s (s.reg x) = true :=
    (storecOk_iff s (s.reg x)).2 ⟨hresv, hdraw⟩
  refine ⟨fun hresv => hfailed fun h => hresv h.1, fun hresv hw => ?_, fun hresv hw => ?_⟩
  · split
    · next hdraw => exact execStorec_runs_of_success hx hmem (hok hresv hdraw) hw
    · next hdraw => exact hfailed fun h => hdraw h.2
  · split
    · next hdraw => exact execStorec_raises_bus hx (hok hresv hdraw) hw
    · next hdraw => exact hfailed fun h => hdraw h.2

/-! ## Subroutine calls -/

/-- Without a destination register and with the codes as they were, only pc is written. -/
theorem RegisterEffect.pcEffect {s t : State} {v pc : Word} (h : RegisterEffect s t 0#4 v s.cc pc) :
    PcEffect s t pc := by
  obtain ⟨⟨-, hregs⟩, hrest⟩ := h
  exact ⟨fun n hn => hregs n hn hn, hrest⟩

/-- An even target is jumped to and the return address saved (10_state.md R26). -/
theorem linkAndJump_runs {target : Word} (heven : target[0] = false) (s : State) (len : Word) (dst : Nibble) :
    Runs (linkAndJump s len dst target) fun t => RegisterEffect s t dst (s.pc + len) s.cc target :=
  ⟨_, jump_even heven, registerEffect_of (.inl rfl) dst _ _⟩

theorem linkAndJump_zero_runs {target : Word} (heven : target[0] = false) (s : State) (len : Word) :
    Runs (linkAndJump s len 0#4 target) fun t => PcEffect s t target :=
  (linkAndJump_runs heven s len 0#4).imp fun _ h => h.pcEffect

/-- Settles O42: the target is taken from the state before the return address is saved. -/
theorem subroutineCallsSaveAndJump : Obligations.SubroutineCallsSaveAndJump :=
  ⟨fun s dst _ heven => ⟨linkAndJump_runs heven s 2#32 dst, linkAndJump_zero_runs heven s 2#32⟩,
    fun s dst _ _ heven => ⟨linkAndJump_runs heven s 4#32 dst, linkAndJump_zero_runs heven s 4#32⟩⟩

end Sys2Proof.Machine
end

section
/-! Additions with codes: the addition primitive in the terms of the statements, LEACC, ADDI and CMPI. -/

namespace Sys2Proof.Machine

/-! ## The addition primitive in the terms of the statements (10_state.md R30) -/

theorem addc32_fst (a b : Word) (cin : Bool) : (addc32 a b cin).1 = a + b + BitVec.ofNat 32 cin.toNat := by
  simp [addc32_sum, BitVec.ofNat_add]

/-- Two signs that agree and differ from the sign of the wrapped sum mean that the exact sum has left the range. -/
theorem addc32_v_eq_outOfRange (a b : Word) (cin : Bool) :
    (addc32 a b cin).2.v = outOfRange (a.toInt + b.toInt + cin.toNat) := by
  have hcin := cin.toNat_le
  have ha := a.isLt
  have hb := b.isLt
  rw [Bool.eq_iff_iff, addc32_v, outOfRange, decide_eq_true_iff, addc32_sum]
  simp only [BitVec.msb_eq_decide, BitVec.toInt_eq_toNat_cond, BitVec.toNat_ofNat, ne_eq, decide_eq_decide]
  omega

theorem addc32_snd (a b : Word) (cin : Bool) : (addc32 a b cin).2 = sumCodes a b cin := by
  rw [sumCodes, ← addc32_fst, ← addc32_v_eq_outOfRange]
  rfl

/-- Adding and going on is the register effect of the sum, with its codes. -/
theorem finishRegCc_addc32_runs (s : State) (len : Word) (dst : Nibble) (a b : Word) (cin : Bool) :
    Runs (finishRegCc s len dst (addc32 a b cin).1 (addc32 a b cin).2) fun t =>
      RegisterEffect s t dst (a + b + BitVec.ofNat 32 cin.toNat) (sumCodes a b cin) (s.pc + len) :=
  addc32_fst a b cin ▸ addc32_snd a b cin ▸ finishRegCc_runs s len dst _ _

/-! ## LEACC and ADDI -/

/-- LEACC adds the sign-extended displacement to the base (41_memory_reference.md R152). -/
theorem execLeacc_runs (s : State) (dst x : Nibble) (disp : Half) :
    Runs (execLeacc dst x disp s) fun t =>
      RegisterEffect s t dst (baseLong s x + disp.signExtend 32) (sumCodes (baseLong s x) (disp.signExtend 32) false)
        (s.pc + 4#32) := by
  simpa [execLeacc] using finishRegCc_addc32_runs s 4#32 dst (baseLong s x) (disp.signExtend 32) false

/-- Settles O28: ADDI is LEACC, whose sign extension is the displacement as a signed integer. -/
theorem leaccAddsTheDisplacement : Obligations.LeaccAddsTheDisplacement :=
  fun s dst x disp => ⟨execLeacc_runs s dst x disp, execLeacc_runs s dst x disp⟩

/-! ## CMPI -/

theorem outOfRange_toInt (a : Word) : outOfRange a.toInt = false := by
  have hlow := a.le_toInt
  have hhigh := a.toInt_lt
  exact decide_eq_false (by omega)

/-- Adding 0 neither overflows nor carries. -/
theorem sumCodes_zero (a : Word) : sumCodes a 0#32 false = codesOf a false false := by
  simp [sumCodes, outOfRange_toInt, ← Nat.not_lt, a.isLt]

/-- Adding a value that is neither 0 nor its own negative -2^31 is comparing with its negative: the same difference,
the same exact sum, and a carry exactly where there is no borrow (41_memory_reference.md R159). -/
theorem sumCodes_eq_differenceCodes_neg {a m : Word} (hzero : m ≠ 0#32) (hmin : m ≠ BitVec.intMin 32) :
    sumCodes a m false = differenceCodes a (-m) false := by
  have hcarry : 2 ^ 32 ≤ a.toNat + m.toNat ↔ (-m).toNat ≤ a.toNat := by bv_omega
  have hrange : a.toInt - (-m).toInt = a.toInt + m.toInt := by
    rw [BitVec.toInt_neg_of_ne_intMin hmin, sub_neg_eq_add]
  simp [sumCodes, differenceCodes, hrange, ← hcarry, -BitVec.toNat_neg]

theorem sumCodes_z (a m : Word) : (sumCodes a m false).z = true ↔ a = -m := by
  simp [sumCodes, codesOf, eq_neg_iff_add_eq_zero]

theorem toInt_signExtend_half (h : Half) : (h.signExtend 32).toInt = h.toInt :=
  BitVec.toInt_signExtend_of_le (by decide)

theorem signExtend_half_ne_zero {h : Half} (hne : h ≠ 0#16) : h.signExtend 32 ≠ 0#32 := by
  intro hzero
  have hint : h.toInt = (0#16).toInt := by rw [← toInt_signExtend_half, hzero]; rfl
  exact hne (BitVec.toInt_inj.1 hint)

/-- A sign-extended halfword is at least -2^15. -/
theorem signExtend_half_ne_intMin (h : Half) : h.signExtend 32 ≠ BitVec.intMin 32 := by
  intro hmin
  have hlow : -2 ^ 15 ≤ (BitVec.intMin 32).toInt := hmin ▸ toInt_signExtend_half h ▸ h.le_toInt
  exact absurd hlow (by decide)

/-- The codes of CMPI, which adds the stored negative of its constant. -/
theorem sumCodes_signExtend_half_neg (a : Word) (c : Half) :
    sumCodes a ((-c).signExtend 32) false =
      if c = 0#16 then codesOf a false false else differenceCodes a (-(-c).signExtend 32) false := by
  split
  · next hc =>
    subst hc
    exact sumCodes_zero a
  · next hc =>
    have hneg : -c ≠ 0#16 := neg_ne_zero.2 hc
    exact sumCodes_eq_differenceCodes_neg (signExtend_half_ne_zero hneg) (signExtend_half_ne_intMin _)

/-- Settles O29: CMPI is LEACC with no register to write, of the negative of the constant. -/
theorem cmpiComparesWithAConstant : Obligations.CmpiComparesWithAConstant := by
  intro s x c a k
  have hk : k = -(-c).signExtend 32 := by
    simp only [k, BitVec.zero_sub, BitVec.ofInt_neg]
    rfl
  refine (execLeacc_runs s 0#4 x (-c)).imp fun t heffect => ?_
  obtain ⟨⟨-, hregs⟩, hcc, hpc, hresv, hmem, hspecial, hplatform⟩ := heffect
  rw [hk, hcc]
  exact ⟨fun n hn => hregs n hn hn, hpc, hresv, hmem, hspecial, hplatform, sumCodes_signExtend_half_neg a c,
    sumCodes_z a _⟩

end Sys2Proof.Machine
end

section
/-! Long and short immediates: constants loaded into a register, and the jump of LIL. -/

namespace Sys2Proof.Machine

/-! ## Constants into a register -/

/-- LIL into a register (42_immediate.md R170). -/
theorem execLil_runs_of_reg {dst : Nibble} (hdst : dst ≠ 0#4) (c : BitVec 24) (s : State) :
    Runs (execLil dst c s) fun t => RegisterEffect s t dst (c.signExtend 32) s.cc (s.pc + 4#32) := by
  rw [execLil, finishRegOrPc, if_neg hdst]
  exact finishReg_runs s 4#32 dst _

/-- A jump that writes no register (10_state.md R28). -/
theorem jump_runs_of_even {target : Word} (heven : target[0] = false) (s : State) :
    Runs (jump s s target) fun t => PcEffect s t target :=
  ⟨_, jump_even heven, fun _ _ => rfl, rfl, rfl, rfl, fun _ => rfl,
    ⟨rfl, rfl, rfl, fun _ => rfl, fun _ => rfl⟩, rfl, rfl⟩

/-- LIL of an even constant into pc (42_immediate.md R170). -/
theorem execLil_zero_runs_of_even {k : BitVec 24} (heven : k[0] = false) (s : State) :
    Runs (execLil 0#4 k s) fun t => PcEffect s t (k.signExtend 32) := by
  have htarget : (k.signExtend 32)[0] = false := by simpa [BitVec.getElem_signExtend] using heven
  exact execLil_zero k s ▸ jump_runs_of_even htarget s

theorem execLis_runs {dst : Nibble} (hdst : dst ≠ 0#4) (c : Byte) (s : State) :
    Runs (execLis dst c s) fun t => RegisterEffect s t dst (c.signExtend 32) s.cc (s.pc + 2#32) := by
  rw [execLis, requireNz_ne hdst]
  exact finishReg_runs s 2#32 dst _

theorem execOris_runs {dst : Nibble} (hdst : dst ≠ 0#4) (c : Byte) (s : State) :
    Runs (execOris dst c s) fun t =>
      RegisterEffect s t dst (s.reg dst <<< 8 ||| c.setWidth 32) s.cc (s.pc + 2#32) := by
  rw [execOris, requireNz_ne hdst]
  exact finishReg_runs s 2#32 dst _

/-- ORIS fills the 8 bits that the shift has cleared, so its OR is a sum (42_immediate.md R172). -/
theorem shiftLeft_or_byte (r : Word) (c : Byte) :
    r <<< 8 ||| c.setWidth 32 = BitVec.ofNat 32 (r.toNat % 2 ^ 24 * 2 ^ 8 + c.toNat) := by
  have hdisjoint : r <<< 8 &&& c.setWidth 32 = 0#32 := by
    ext i hi
    by_cases hlow : i < 8
    · simp [hlow]
    · simp [BitVec.getLsbD_of_ge c i (Nat.le_of_not_lt hlow)]
  have hr := r.isLt
  have hc := c.isLt
  rw [← BitVec.add_eq_or_of_and_eq_zero _ _ hdisjoint]
  bv_omega

/-! ## LIW: LIL and then ORIS -/

/-- The high 24 bits of a word, shifted up, and its low 8 bits make the word again (42_immediate.md R174). -/
theorem word_of_high_or_low (w : Word) :
    (w.extractLsb' 8 24).signExtend 32 <<< 8 ||| (w.extractLsb' 0 8).setWidth 32 = w := by
  ext i hi
  by_cases hlow : i < 8
  · simp [hlow, BitVec.getLsbD_eq_getElem hi]
  · have hhigh : i - 8 < 24 := by omega
    have hpos : 8 + (i - 8) = i := by omega
    simp [hlow, BitVec.getElem_signExtend, hhigh, hpos, BitVec.getLsbD_eq_getElem hi]

/-- Where the first instruction runs, the pair runs as the second does from there. -/
theorem Runs.andThen {r : Result} {k : State → Result} {P Q : State → Prop} (hr : Runs r P)
    (hk : ∀ t, P t → Runs (k t) Q) : Runs (andThen r k) Q := by
  obtain ⟨t, rfl, ht⟩ := hr
  exact hk t ht

/-- Of two writes to one register the second stays. -/
theorem RegWritten.trans {s t u : State} {dst : Nibble} {v w : Word} (hst : RegWritten s t dst v)
    (htu : RegWritten t u dst w) : RegWritten s u dst w := by
  obtain ⟨-, hother⟩ := hst
  obtain ⟨hdst, hother'⟩ := htu
  exact ⟨hdst, fun n hn hne => (hother' n hn hne).trans (hother n hn hne)⟩

theorem SpecialKept.trans {s t u : State} (hst : SpecialKept s t) (htu : SpecialKept t u) : SpecialKept s u := by
  obtain ⟨hlevel, hprior, hbcd, hcpu, hco⟩ := hst
  obtain ⟨hlevel', hprior', hbcd', hcpu', hco'⟩ := htu
  exact ⟨hlevel'.trans hlevel, hprior'.trans hprior, hbcd'.trans hbcd, fun k => (hcpu' k).trans (hcpu k),
    fun k => (hco' k).trans (hco k)⟩

/-- Two register effects on one register are that of the second. -/
theorem RegisterEffect.trans {s t u : State} {dst : Nibble} {v w pc pc' : Word} {cc cc' : Flags}
    (hst : RegisterEffect s t dst v cc pc) (htu : RegisterEffect t u dst w cc' pc') :
    RegisterEffect s u dst w cc' pc' := by
  obtain ⟨hreg, -, -, hresv, hmem, hspecial, hconfig, hdevice⟩ := hst
  obtain ⟨hreg', hcc, hpc, hresv', hmem', hspecial', hconfig', hdevice'⟩ := htu
  exact ⟨hreg.trans hreg', hcc, hpc, hresv'.trans hresv, fun a => (hmem' a).trans (hmem a),
    hspecial.trans hspecial', hconfig'.trans hconfig, hdevice'.trans hdevice⟩

/-- ORIS shifts the sign that LIL has extended out again, so that LIW loads its word whole. -/
theorem execLiw_runs {dst : Nibble} (hdst : dst ≠ 0#4) (w : Word) (s : State) :
    Runs (execLiw dst w s) fun t => RegisterEffect s t dst w s.cc (s.pc + 6#32) := by
  rw [execLiw, requireNz_ne hdst]
  refine (execLil_runs_of_reg hdst _ s).andThen fun t hlil => (execOris_runs hdst _ t).imp fun u horis => ?_
  have heffect := hlil.trans horis
  obtain ⟨⟨hreg, -⟩, hcc, hpc, -⟩ := hlil
  have hlength : s.pc + 4#32 + 2#32 = s.pc + 6#32 := by rw [BitVec.add_assoc]; rfl
  rwa [hreg hdst, word_of_high_or_low, hcc, hpc, hlength] at heffect

/-- Settles O32: CLR is LIS of 0, LIW is LIL and ORIS, and a constant's sign extension is its signed value. -/
theorem immediatesLoadTheConstant : Obligations.ImmediatesLoadTheConstant :=
  ⟨fun s _ c hdst => execLil_runs_of_reg hdst c s, fun s _ heven => execLil_zero_runs_of_even heven s,
    fun s _ c hdst => execLis_runs hdst c s,
    fun s dst c hdst => shiftLeft_or_byte (s.reg dst) c ▸ execOris_runs hdst c s,
    fun s _ hdst => execLis_runs hdst 0#8 s, fun s _ w hdst => execLiw_runs hdst w s⟩

end Sys2Proof.Machine
end

section
/-! Shifts and bit tests: what the shift primitives compute, the shift instructions, and the branch on a tested bit. -/

namespace Sys2Proof.Machine

/-! ## The shift primitives in the terms of the statements -/

/-- A left shift multiplies by a power of two, modulo 2^32. -/
theorem shiftLeft_eq_ofNat (v : Word) (k : Nat) : v <<< k = BitVec.ofNat 32 (v.toNat * 2 ^ k) :=
  BitVec.eq_of_toNat_eq (by simp [Nat.shiftLeft_eq])

theorem shiftLeft_add_eq_ofNat (v a : Word) (k : Nat) :
    v <<< k + a = BitVec.ofNat 32 (v.toNat * 2 ^ k + a.toNat) := by
  rw [shiftLeft_eq_ofNat, BitVec.ofNat_add, BitVec.ofNat_toNat, BitVec.setWidth_eq]

/-- 33 bits hold the sum of two signed words. -/
theorem toInt_signExtend_add (d a : Word) : (d.signExtend 33 + a.signExtend 33).toInt = d.toInt + a.toInt := by
  have hd := d.le_toInt
  have hd' := d.toInt_lt
  have ha := a.le_toInt
  have ha' := a.toInt_lt
  rw [BitVec.toInt_add, BitVec.toInt_signExtend_of_le (by decide), BitVec.toInt_signExtend_of_le (by decide)]
  exact Int.bmod_eq_of_le (by omega) (by omega)

/-- 33 bits hold the sum of two unsigned words. -/
theorem toNat_setWidth_add (d a : Word) : (d.setWidth 33 + a.setWidth 33).toNat = d.toNat + a.toNat := by
  bv_omega

/-- An arithmetic right shift divides, rounding down, and keeps the low word of the quotient. -/
theorem ofInt_toInt_div {n : Nat} (hn : 32 ≤ n) (x : BitVec n) (k : Nat) :
    BitVec.ofInt 32 (x.toInt / 2 ^ k) = (x.sshiftRight k).setWidth 32 := by
  rw [← BitVec.signExtend_eq_setWidth_of_le _ hn, BitVec.signExtend, BitVec.toInt_sshiftRight,
    Int.shiftRight_eq_div_pow, Nat.cast_pow, Nat.cast_ofNat]

/-- A logical right shift divides, rounding down, and keeps the low word of the quotient. -/
theorem ofNat_toNat_div {n : Nat} (x : BitVec n) (k : Nat) :
    BitVec.ofNat 32 (x.toNat / 2 ^ k) = (x >>> k).setWidth 32 := by
  rw [← BitVec.ofNat_toNat, BitVec.toNat_ushiftRight, Nat.shiftRight_eq_div_pow]

theorem shiftSumSigned_wide (d a : Word) (k : Nat) :
    shiftSumSigned .wide d a k = ((d.signExtend 33 + a.signExtend 33).sshiftRight k).setWidth 32 := by
  rw [shiftSumSigned, ← toInt_signExtend_add, ofInt_toInt_div (by decide)]

theorem shiftSumSigned_narrow (d a : Word) (k : Nat) : shiftSumSigned .narrow d a k = (d + a).sshiftRight k := by
  rw [shiftSumSigned, ofInt_toInt_div le_rfl, BitVec.setWidth_eq]

theorem shiftSumUnsigned_wide (d a : Word) (k : Nat) :
    shiftSumUnsigned .wide d a k = ((d.setWidth 33 + a.setWidth 33) >>> k).setWidth 32 := by
  rw [shiftSumUnsigned, ← toNat_setWidth_add, ofNat_toNat_div]

theorem shiftSumUnsigned_narrow (d a : Word) (k : Nat) : shiftSumUnsigned .narrow d a k = (d + a) >>> k := by
  rw [shiftSumUnsigned, ofNat_toNat_div, BitVec.setWidth_eq]

/-- A sum with 0 does not leave 32 bits, so the width of the sum does not matter. -/
theorem shiftSumSigned_zero (w : SumWidth) (d : Word) (k : Nat) :
    shiftSumSigned w d 0#32 k = d.sshiftRight k := by
  have hnarrow : shiftSumSigned .narrow d 0#32 k = d.sshiftRight k := by
    rw [shiftSumSigned_narrow, BitVec.add_zero]
  cases w with
  | narrow => exact hnarrow
  | wide => simpa [shiftSumSigned] using hnarrow

theorem shiftSumUnsigned_zero (w : SumWidth) (d : Word) (k : Nat) : shiftSumUnsigned w d 0#32 k = d >>> k := by
  have hnarrow : shiftSumUnsigned .narrow d 0#32 k = d >>> k := by
    rw [shiftSumUnsigned_narrow, BitVec.add_zero]
  cases w with
  | narrow => exact hnarrow
  | wide => simpa [shiftSumUnsigned] using hnarrow

theorem shiftSumSigned_comm (w : SumWidth) (d a : Word) (k : Nat) :
    shiftSumSigned w d a k = shiftSumSigned w a d k := by
  cases w with
  | wide => rw [shiftSumSigned_wide, shiftSumSigned_wide, BitVec.add_comm]
  | narrow => rw [shiftSumSigned_narrow, shiftSumSigned_narrow, BitVec.add_comm]

theorem regOrZero_zero (s : State) : regOrZero s 0#4 = 0#32 := if_pos rfl

theorem regOrZero_ne {n : Nibble} (hn : n ≠ 0#4) (s : State) : regOrZero s n = s.reg n := if_neg hn

/-! ## Left shifts -/

/-- MOVESL shifts a register (43_shift.md R181). -/
theorem execMovesl_runs {s1 : Nibble} (hs1 : s1 ≠ 0#4) (s : State) (dst c : Nibble) :
    Runs (execMovesl dst s1 c s) fun t =>
      RegisterEffect s t dst (s.reg s1 <<< shiftCount c)
        (flagsNZ (s.reg s1 <<< shiftCount c) (Config.ccShlVC (s.reg s1) (shiftCount c) 0#32)) (s.pc + 2#32) := by
  rw [execMovesl, requireNz_ne hs1]
  exact finishRegCc_runs s 2#32 dst _ _

/-- ADDSL shifts its destination and then adds (43_shift.md R184). -/
theorem execAddsl_runs {dst : Nibble} (hdst : dst ≠ 0#4) (s : State) (s1 c : Nibble) :
    Runs (execAddsl dst s1 c s) fun t =>
      RegisterEffect s t dst (s.reg dst <<< shiftCount c + regOrZero s s1)
        (flagsNZ (s.reg dst <<< shiftCount c + regOrZero s s1)
          (Config.ccShlVC (s.reg dst) (shiftCount c) (regOrZero s s1))) (s.pc + 2#32) := by
  rw [execAddsl, requireNz_ne hdst]
  exact finishRegCc_runs s 2#32 dst _ _

/-- SL adds 0, the value of its source field. -/
theorem execSl_runs {dst : Nibble} (hdst : dst ≠ 0#4) (s : State) (c : Nibble) :
    Runs (execSl dst c s) fun t =>
      RegisterEffect s t dst (s.reg dst <<< shiftCount c)
        (flagsNZ (s.reg dst <<< shiftCount c) (Config.ccShlVC (s.reg dst) (shiftCount c) 0#32)) (s.pc + 2#32) := by
  simpa [execSl, regOrZero_zero] using execAddsl_runs hdst s 0#4 c

/-- Settles O45: SL is ADDSL of 0, BITTST is MOVESL with no register to write, and a shift is a product. -/
theorem leftShiftsShiftThenAdd : Obligations.LeftShiftsShiftThenAdd := by
  refine ⟨fun s dst s1 c hs1 => ?_, fun s dst s1 c hdst => ?_, fun s dst c hdst => ?_⟩
  · intro v r vc
    have hr : v <<< count16 c = r := shiftLeft_eq_ofNat v _
    exact hr ▸ ⟨execMovesl_runs hs1 s dst c, execMovesl_runs hs1 s 0#4 c⟩
  · intro v a r vc
    have hr : v <<< count16 c + a = r := shiftLeft_add_eq_ofNat v a _
    exact hr ▸ execAddsl_runs hdst s s1 c
  · intro v r vc
    have hr : v <<< count16 c = r := shiftLeft_eq_ofNat v _
    exact hr ▸ execSl_runs hdst s c

/-! ## Right shifts -/

/-- ADDSR adds and then shifts, and C is the last bit shifted out (43_shift.md R182). -/
theorem execAddsr_runs (s : State) (dst s1 c : Nibble) :
    let sum := regOrZero s dst + regOrZero s s1
    let r := shiftSumSigned s.config.addsrSum (regOrZero s dst) (regOrZero s s1) (shiftCount c)
    Runs (execAddsr dst s1 c s) fun t =>
      RegisterEffect s t dst r
        (codesOf r (Config.ccShrV sum (shiftCount c) .signed) (sum.getLsbD (shiftCount c - 1))) (s.pc + 2#32) :=
  finishRegCc_runs s 2#32 dst _ _

/-- ADDSRU, likewise (43_shift.md R183). -/
theorem execAddsru_runs (s : State) (dst s1 c : Nibble) :
    let sum := regOrZero s dst + regOrZero s s1
    let r := shiftSumUnsigned s.config.addsrSum (regOrZero s dst) (regOrZero s s1) (shiftCount c)
    Runs (execAddsru dst s1 c s) fun t =>
      RegisterEffect s t dst r
        (codesOf r (Config.ccShrV sum (shiftCount c) .unsigned) (sum.getLsbD (shiftCount c - 1))) (s.pc + 2#32) :=
  finishRegCc_runs s 2#32 dst _ _

/-- Settles O46: the configuration's width of the sum decides which quotient is written. -/
theorem rightShiftsAddThenShift : Obligations.RightShiftsAddThenShift := by
  intro s dst s1 c d a k last
  have haddsr := execAddsr_runs s dst s1 c
  have haddsru := execAddsru_runs s dst s1 c
  cases hwidth : s.config.addsrSum with
  | wide =>
    rw [hwidth, shiftSumSigned_wide] at haddsr
    rw [hwidth, shiftSumUnsigned_wide] at haddsru
    exact ⟨haddsr, haddsru⟩
  | narrow =>
    rw [hwidth, shiftSumSigned_narrow] at haddsr
    rw [hwidth, shiftSumUnsigned_narrow] at haddsru
    exact ⟨haddsr, haddsru⟩

/-- SR adds 0, the value of its source field (43_shift.md R186). -/
theorem execSr_runs (s : State) (dst c : Nibble) :
    let d := regOrZero s dst
    let k := shiftCount c
    Runs (execSr dst c s) fun t =>
      RegisterEffect s t dst (d.sshiftRight k)
        (codesOf (d.sshiftRight k) (Config.ccShrV d k .signed) (d.getLsbD (k - 1))) (s.pc + 2#32) := by
  simpa only [execSr, regOrZero_zero, shiftSumSigned_zero, BitVec.add_zero] using execAddsr_runs s dst 0#4 c

/-- The low BITTST adds its register to 0 and discards the shifted sum (43_shift.md R188). -/
theorem execBittstLow_runs (s : State) (r c : Nibble) :
    let d := regOrZero s r
    let k := shiftCount c
    Runs (execBittstLow r c s) fun t =>
      RegisterEffect s t 0#4 (d.sshiftRight k)
        (codesOf (d.sshiftRight k) (Config.ccShrV d k .signed) (d.getLsbD (k - 1))) (s.pc + 2#32) := by
  simpa only [execBittstLow, regOrZero_zero, shiftSumSigned_comm _ 0#32, shiftSumSigned_zero, BitVec.zero_add]
    using execAddsr_runs s 0#4 r c

/-- A shift by at least one place fills the sign with 0. -/
theorem msb_ushiftRight_shiftCount (d : Word) (c : Nibble) : (d >>> shiftCount c).msb = false := by
  obtain ⟨hpos, -⟩ := shiftCount_range c
  rw [BitVec.msb_ushiftRight, decide_eq_true (Nat.lt_of_succ_le hpos)]
  rfl

/-- SRU adds 0 too, and its result has no sign (43_shift.md R187). -/
theorem execSru_runs (s : State) (dst c : Nibble) :
    let d := regOrZero s dst
    let k := shiftCount c
    Runs (execSru dst c s) fun t =>
      RegisterEffect s t dst (d >>> k)
        { n := false, z := decide (d >>> k = 0#32), v := Config.ccShrV d k .unsigned, c := d.getLsbD (k - 1) }
        (s.pc + 2#32) := by
  simpa only [execSru, regOrZero_zero, shiftSumUnsigned_zero, BitVec.add_zero, codesOf, msb_ushiftRight_shiftCount]
    using execAddsru_runs s dst 0#4 c

/-- With no register to write, the value of a register effect does not matter. -/
theorem RegisterEffect.of_no_register {s t : State} {v pc : Word} {cc : Flags}
    (h : RegisterEffect s t 0#4 v cc pc) (w : Word) : RegisterEffect s t 0#4 w cc pc := by
  obtain ⟨⟨-, hregs⟩, hrest⟩ := h
  exact ⟨⟨fun hne => absurd rfl hne, hregs⟩, hrest⟩

/-- Settles O47: the three names add to 0 or add 0, which leaves the register's value in any width. -/
theorem srSruAndLowBittstShiftRight : Obligations.SrSruAndLowBittstShiftRight :=
  fun s dst c => ⟨execSr_runs s dst c, execSru_runs s dst c,
    (execBittstLow_runs s dst c).imp fun _ heffect => heffect.of_no_register 0#32⟩

/-! ## Bit tests and the branches after them -/

/-- The code in which BITTST leaves bit `b`, and which BBS and BBR test (43_shift.md R190, R191). -/
def testedCode (b : BitVec 5) (f : Flags) : Bool := if 16#5 ≤ b then f.n else f.c

/-- The BITTST of bit `b` of a register (43_shift.md R190). -/
def bittst (r : Nibble) (b : BitVec 5) : Instr :=
  if b = 31#5 then .bittst31 r
  else if 16#5 ≤ b then .bittstHigh r (BitVec.ofNat 4 (31 - b.toNat))
  else .bittstLow r (BitVec.ofNat 4 (b.toNat + 1))

theorem testedCode_high {b : BitVec 5} (hb : 16#5 ≤ b) (f : Flags) : testedCode b f = f.n := if_pos hb

theorem testedCode_low {b : BitVec 5} (hb : ¬ 16#5 ≤ b) (f : Flags) : testedCode b f = f.c := if_neg hb

/-- A count from 1 to 16 is what its field stands for (30_encoding.md R105). -/
theorem shiftCount_ofNat {k : Nat} (hpos : 1 ≤ k) (hle : k ≤ 16) : shiftCount (BitVec.ofNat 4 k) = k := by
  rcases hle.eq_or_lt with rfl | hlt
  · rfl
  · have hk : (BitVec.ofNat 4 k).toNat = k := Nat.mod_eq_of_lt hlt
    have hne : BitVec.ofNat 4 k ≠ 0#4 := fun hzero => by simp [hzero] at hk; omega
    rw [shiftCount, if_neg hne, hk]

/-- Shifting left moves the bit that many places below the top into the sign. -/
theorem msb_shiftLeft_eq_bit (v : Word) {j : Nat} (hj : j ≤ 31) : (v <<< (31 - j)).msb = v.getLsbD j := by
  have hpos : 31 - j < 32 := by omega
  have hindex : 32 - 1 - (31 - j) = j := by omega
  rw [BitVec.msb_shiftLeft, BitVec.getMsbD, decide_eq_true hpos, Bool.true_and, hindex]

/-- Every BITTST writes the codes alone, and the tested bit is among them. -/
theorem bittst_runs {r : Nibble} (hr : r ≠ 0#4) (b : BitVec 5) (s : State) :
    Runs (exec (bittst r b) s) fun t =>
      ∃ v cc, RegisterEffect s t 0#4 v cc (s.pc + 2#32) ∧ testedCode b cc = (s.reg r).getLsbD b.toNat := by
  have hlt : b.toNat < 32 := b.isLt
  unfold bittst
  split_ifs with h31 hhigh
  · subst h31
    refine (execMovecc_runs s 0#4 r).imp fun t heffect => ⟨_, _, heffect, ?_⟩
    rw [testedCode_high (by decide), eaShort, regOrPc, if_neg hr]
    exact BitVec.msb_eq_getLsbD_last (s.reg r)
  · refine (execMovesl_runs hr s 0#4 _).imp fun t heffect => ⟨_, _, heffect, ?_⟩
    have hne : b.toNat ≠ 31 := fun h => h31 (BitVec.eq_of_toNat_eq h)
    have hge : 16 ≤ b.toNat := hhigh
    rw [testedCode_high hhigh, flagsNZ_n, shiftCount_ofNat (by omega) (by omega), msb_shiftLeft_eq_bit _ (by omega)]
  · refine (execBittstLow_runs s r _).imp fun t heffect => ⟨_, _, heffect, ?_⟩
    have hlow : b.toNat < 16 := Nat.lt_of_not_le hhigh
    rw [testedCode_low hhigh, regOrZero_ne hr, shiftCount_ofNat (by omega) (by omega)]
    rfl

/-- Doubling the signed displacement and extending it may be done in either order (49_branch.md R265). -/
theorem branchTarget_eq_targetOf (s : State) (disp : Byte) : branchTarget s disp = targetOf s.pc disp := by
  have hdouble : disp.signExtend 32 <<< 1 = BitVec.ofInt 32 (2 * disp.toInt) := by
    rw [BitVec.ofInt_mul, BitVec.shiftLeft_eq_mul_twoPow, BitVec.mul_comm]
    rfl
  rw [branchTarget, targetOf, hdouble]

/-- A branch writes pc alone (49_branch.md R265). -/
theorem branchIf_runs (taken : Bool) (disp : Byte) (s : State) :
    Runs (branchIf taken disp s) fun t => PcEffect s t (if taken then targetOf s.pc disp else s.pc + 2#32) :=
  branchTarget_eq_targetOf s disp ▸ ⟨_, rfl, fun _ _ => rfl, rfl, rfl, rfl, fun _ => rfl,
    ⟨rfl, rfl, rfl, fun _ => rfl, fun _ => rfl⟩, rfl, rfl⟩

theorem execBbs_eq_branchIf (b : BitVec 5) (disp : Byte) (s : State) :
    execBbs b disp s = branchIf (testedCode b s.cc) disp s := by
  unfold execBbs testedCode
  split <;> rfl

theorem execBbr_eq_branchIf (b : BitVec 5) (disp : Byte) (s : State) :
    execBbr b disp s = branchIf (!testedCode b s.cc) disp s := by
  unfold execBbr testedCode
  split <;> rfl

/-- BBS is taken where the tested bit is 1. -/
theorem execBbs_runs {b : BitVec 5} {bit : Bool} {s : State} (hbit : testedCode b s.cc = bit) (disp : Byte) :
    Runs (execBbs b disp s) fun t => PcEffect s t (if bit then targetOf s.pc disp else s.pc + 2#32) :=
  execBbs_eq_branchIf b disp s ▸ hbit ▸ branchIf_runs _ disp s

/-- BBR is taken where the tested bit is 0. -/
theorem execBbr_runs {b : BitVec 5} {bit : Bool} {s : State} (hbit : testedCode b s.cc = bit) (disp : Byte) :
    Runs (execBbr b disp s) fun t => PcEffect s t (if bit then s.pc + 2#32 else targetOf s.pc disp) := by
  subst hbit
  rw [execBbr_eq_branchIf]
  simpa [apply_ite] using branchIf_runs (!testedCode b s.cc) disp s

/-- Settles O48: the test leaves the bit in the code that the branch goes by. -/
theorem bittstThenBranchTestsTheBit : Obligations.BittstThenBranchTestsTheBit := by
  intro s r b disp hr
  refine (bittst_runs hr b s).imp fun t ⟨v, cc, heffect, hbit⟩ => ?_
  obtain ⟨⟨-, hregs⟩, rfl, hpc, hresv, hmem, hspecial, hplatform⟩ := heffect
  exact ⟨fun n hn => hregs n hn hn, hpc, hresv, hmem, hspecial, hplatform, hbit, execBbs_runs hbit disp,
    execBbr_runs hbit disp⟩

end Sys2Proof.Machine
end

section
/-! Bytes and halfwords: positions of a pointer, the fields there, STUFFB, STUFFH, EXTB and EXTH. -/

namespace Sys2Proof.Machine

/-! ## Positions of a pointer (30_encoding.md R108) -/

/-- A source field of 0 reads as 0, in natural numbers (30_encoding.md R100). -/
theorem toNat_regOrZero (s : State) (n : Nibble) :
    (regOrZero s n).toNat = if n = 0#4 then 0 else (s.reg n).toNat :=
  apply_ite BitVec.toNat ..

theorem bytePos_eq (p : Word) : bytePos p = 8 * (p.toNat % 4) := by
  simp [bytePos]

theorem halfPos_eq (p : Word) : halfPos p = 16 * (p.toNat / 2 % 2) := by
  simp [halfPos, Nat.shiftRight_eq_div_pow]

/-! ## The field at a position -/

/-- The stuffed word bit by bit: the source's low bits in the field, the target's own bits around it. -/
theorem getLsbD_stuffAt (t v : Word) (p w : Nat) {j : Nat} (hj : j < 32) :
    (stuffAt t v p w).getLsbD j = if p ≤ j ∧ j < p + w then v.getLsbD (j - p) else t.getLsbD j := by
  by_cases hlow : p ≤ j
  · have hnot : ¬ j < p := Nat.not_lt.mpr hlow
    have hwidth : j - p < w ↔ j < p + w := Nat.sub_lt_iff_lt_add' hlow
    by_cases hhigh : j < p + w
    · simp [stuffAt, hj, hlow, hnot, hwidth, hhigh, Nat.lt_of_le_of_lt (Nat.sub_le j p) hj]
    · simp [stuffAt, hj, hlow, hnot, hwidth, hhigh]
  · simp [stuffAt, hj, hlow, Nat.lt_of_not_le hlow]

/-- The field is the quotient by the weight of its position, cut to its width. -/
theorem fieldAt_eq_ofNat (v : Word) (p w : Nat) : fieldAt v p w = BitVec.ofNat 32 (v.toNat / 2 ^ p % 2 ^ w) := by
  apply BitVec.eq_of_toNat_eq
  simp [fieldAt, Nat.shiftRight_eq_div_pow]

/-- N of an extracted field is the bit that `EXT_N` names (44_byte_halfword.md R202, R203). -/
theorem flagsExt_eq (e : ExtN) (r : Word) {top : Nat} (htop : top < 32) :
    flagsExt e r top =
      { n := if e = .msbOfField then r[top] else r[31], z := decide (r = 0#32), v := false, c := false } := by
  cases e with
  | bit31 => rw [← word_msb]; rfl
  | msbOfField => rw [← BitVec.getLsbD_eq_getElem htop]; rfl

/-! ## STUFFB and STUFFH -/

/-- STUFFB writes its destination with one byte replaced (44_byte_halfword.md R200). -/
theorem execStuffb_runs {dst : Nibble} (hdst : dst ≠ 0#4) (s : State) (s1 s2 : Nibble) :
    Runs (execStuffb dst s1 s2 s) fun t =>
      RegisterEffect s t dst (stuffAt (s.reg dst) (regOrZero s s1) (bytePos (regOrZero s s2)) 8) s.cc
        (s.pc + 2#32) := by
  rw [execStuffb, requireNz_ne hdst]
  exact finishReg_runs s 2#32 dst _

/-- STUFFH, likewise with one halfword (44_byte_halfword.md R201). -/
theorem execStuffh_runs {dst : Nibble} (hdst : dst ≠ 0#4) (s : State) (s1 s2 : Nibble) :
    Runs (execStuffh dst s1 s2 s) fun t =>
      RegisterEffect s t dst (stuffAt (s.reg dst) (regOrZero s s1) (halfPos (regOrZero s s2)) 16) s.cc
        (s.pc + 2#32) := by
  rw [execStuffh, requireNz_ne hdst]
  exact finishReg_runs s 2#32 dst _

/-- Writing a stuffed word, told bit by bit of the register that now holds it. -/
theorem RegisterEffect.stuffed {s t : State} {dst : Nibble} {v pc : Word} {cc : Flags} {p w : Nat}
    (hdst : dst ≠ 0#4) (h : RegisterEffect s t dst (stuffAt (s.reg dst) v p w) cc pc) :
    RegisterEffect s t dst (t.reg dst) cc pc ∧
    ∀ j, j < 32 → (t.reg dst).getLsbD j =
      if p ≤ j ∧ j < p + w then v.getLsbD (j - p) else (s.reg dst).getLsbD j := by
  have ⟨⟨hreg, _⟩, _⟩ := h
  rw [hreg hdst]
  exact ⟨h, fun j hj => getLsbD_stuffAt _ v p w hj⟩

/-- Settles O49: the pointer's low bits are its position, and the stuffed word is known bit by bit. -/
theorem stuffReplacesTheField : Obligations.StuffReplacesTheField := by
  intro s dst s1 s2 hdst v p b h
  have hbyte : bytePos (regOrZero s s2) = b := by rw [bytePos_eq, toNat_regOrZero]
  have hhalf : halfPos (regOrZero s s2) = h := by rw [halfPos_eq, toNat_regOrZero]
  rw [← hbyte, ← hhalf]
  exact ⟨(execStuffb_runs hdst s s1 s2).imp fun _ heffect => heffect.stuffed hdst,
    (execStuffh_runs hdst s s1 s2).imp fun _ heffect => heffect.stuffed hdst⟩

/-! ## EXTB and EXTH -/

/-- EXTB takes the byte at the pointer's position (44_byte_halfword.md R202). -/
theorem execExtb_runs {s1 : Nibble} (hs1 : s1 ≠ 0#4) (s : State) (dst s2 : Nibble) :
    let r := fieldAt (s.reg s1) (bytePos (regOrZero s s2)) 8
    Runs (execExtb dst s1 s2 s) fun t =>
      RegisterEffect s t dst r (flagsExt s.config.extN r 7) (s.pc + 2#32) := by
  intro r
  rw [execExtb, requireNz_ne hs1]
  exact finishRegCc_runs s 2#32 dst r _

/-- EXTH takes the halfword at the pointer's position (44_byte_halfword.md R203). -/
theorem execExth_runs {s1 : Nibble} (hs1 : s1 ≠ 0#4) (s : State) (dst s2 : Nibble) :
    let r := fieldAt (s.reg s1) (halfPos (regOrZero s s2)) 16
    Runs (execExth dst s1 s2 s) fun t =>
      RegisterEffect s t dst r (flagsExt s.config.extN r 15) (s.pc + 2#32) := by
  intro r
  rw [execExth, requireNz_ne hs1]
  exact finishRegCc_runs s 2#32 dst r _

/-- Settles O50: the field at the pointer's position is a quotient cut to 8 or to 16 bits. -/
theorem extractTakesTheField : Obligations.ExtractTakesTheField := by
  intro s dst s1 s2 hs1 p b h
  have hbyte : fieldAt (s.reg s1) (bytePos (regOrZero s s2)) 8 = b := by
    rw [fieldAt_eq_ofNat, bytePos_eq, toNat_regOrZero]
  have hhalf : fieldAt (s.reg s1) (halfPos (regOrZero s s2)) 16 = h := by
    rw [fieldAt_eq_ofNat, halfPos_eq, toNat_regOrZero]
  rw [← flagsExt_eq _ b (by decide), ← flagsExt_eq _ h (by decide), ← hbyte, ← hhalf]
  exact ⟨execExtb_runs hs1 s dst s2, execExth_runs hs1 s dst s2⟩

end Sys2Proof.Machine
end

section
/-! Additions and subtractions of registers: ADD, ADDSI, SUB, NEG and CMP, and what a comparison leaves in the codes. -/

namespace Sys2Proof.Machine

/-! ## Subtraction in the terms of the statements (45_add_subtract.md R211) -/

theorem toNat_not_eq_one_sub (cin : Bool) : (!cin).toNat = 1 - cin.toNat := by
  cases cin <;> rfl

/-- The carry in of a subtraction is the borrow complemented. -/
theorem addc32_compl_fst (a b : Word) (cin : Bool) :
    (addc32 a (~~~ b) cin).1 = a - b - BitVec.ofNat 32 (!cin).toNat :=
  toNat_not_eq_one_sub cin ▸ addc32_compl_sum a b cin

/-- The complement is one less than the negative, as an exact signed integer too. -/
theorem toInt_compl (b : Word) : (~~~ b).toInt = -b.toInt - 1 := by
  have hb := b.isLt
  simp only [BitVec.toInt_eq_toNat_cond, BitVec.toNat_not]
  omega

/-- The codes of adding the complement are those of the difference: the exact sum is the exact difference, and a carry
means no borrow. -/
theorem addc32_compl_snd (a b : Word) (cin : Bool) :
    (addc32 a (~~~ b) cin).2 = differenceCodes a b (!cin) := by
  have hb := b.isLt
  have hcin := cin.toNat_le
  have hborrow := toNat_not_eq_one_sub cin
  have hvalue : a + ~~~ b + BitVec.ofNat 32 cin.toNat = a - b - BitVec.ofNat 32 (!cin).toNat := by
    rw [← addc32_fst, addc32_compl_fst]
  have hexact : a.toInt + (~~~ b).toInt + cin.toNat = a.toInt - b.toInt - (!cin).toNat := by
    rw [toInt_compl]
    omega
  have hcarry : 2 ^ 32 ≤ a.toNat + (~~~ b).toNat + cin.toNat ↔ b.toNat + (!cin).toNat ≤ a.toNat := by
    rw [BitVec.toNat_not]
    omega
  simp only [addc32_snd, sumCodes, differenceCodes, hvalue, hexact, hcarry]

/-- Subtracting and going on is the register effect of the difference, with its codes. -/
theorem finishRegCc_addc32_compl_runs (s : State) (len : Word) (dst : Nibble) (a b : Word) (cin : Bool) :
    Runs (finishRegCc s len dst (addc32 a (~~~ b) cin).1 (addc32 a (~~~ b) cin).2) fun t =>
      RegisterEffect s t dst (a - b - BitVec.ofNat 32 (!cin).toNat) (differenceCodes a b (!cin)) (s.pc + len) :=
  addc32_compl_fst a b cin ▸ addc32_compl_snd a b cin ▸ finishRegCc_runs s len dst _ _

/-! ## ADD and ADDSI -/

/-- ADD adds two registers (45_add_subtract.md R210). -/
theorem execAdd_runs {s1 s2 : Nibble} (hs1 : s1 ≠ 0#4) (hs2 : s2 ≠ 0#4) (s : State) (dst : Nibble) :
    Runs (execAdd dst s1 s2 s) fun t =>
      RegisterEffect s t dst (s.reg s1 + s.reg s2) (sumCodes (s.reg s1) (s.reg s2) false) (s.pc + 2#32) := by
  rw [execAdd, requireNz_ne hs1, requireNz_ne hs2]
  simpa using finishRegCc_addc32_runs s 2#32 dst (s.reg s1) (s.reg s2) false

/-- ADDSI adds its constant to its destination (46_short_constant.md R223). -/
theorem execAddsi_runs {dst : Nibble} (hdst : dst ≠ 0#4) (s : State) (c : Nibble) :
    Runs (execAddsi dst c s) fun t =>
      RegisterEffect s t dst (s.reg dst + shortConst c) (sumCodes (s.reg dst) (shortConst c) false)
        (s.pc + 2#32) := by
  rw [execAddsi, requireNz_ne hdst]
  simpa using finishRegCc_addc32_runs s 2#32 dst (s.reg dst) (shortConst c) false

/-- Settles O24: each adds with no carry in, and sign extension is the word of ADDSI's field as a signed integer. -/
theorem addInstructionsAdd : Obligations.AddInstructionsAdd :=
  ⟨fun s dst _ _ hs1 hs2 => execAdd_runs hs1 hs2 s dst, fun s _ c hdst => execAddsi_runs hdst s c⟩

/-! ## What a comparison leaves in the codes (45_add_subtract.md R213) -/

/-- Wrapping a value less than 2^32 away from 0 turns its sign exactly where 32 bits do not hold the value. -/
theorem decide_bmod_neg {d : Int} (hlow : -2 ^ 32 < d) (hhigh : d < 2 ^ 32) :
    decide (d.bmod (2 ^ 32) < 0) = (decide (d < 0) != outOfRange d) := by
  rw [Bool.eq_iff_iff, bne_iff_ne, outOfRange, decide_eq_true_iff, ne_eq, decide_eq_decide, Int.bmod]
  norm_num at hlow hhigh ⊢
  split <;> omega

/-- N of a difference is the sign of the exact difference, turned where V is set; so N and V differ exactly where the
first operand is the lesser signed integer. -/
theorem differenceCodes_n_bne_v (a b : Word) :
    ((differenceCodes a b false).n != (differenceCodes a b false).v) = decide (a.toInt < b.toInt) := by
  have hn : (differenceCodes a b false).n = decide ((a.toInt - b.toInt).bmod (2 ^ 32) < 0) := by
    simp [differenceCodes, codesOf, BitVec.msb_eq_toInt, BitVec.toInt_sub]
  have hv : (differenceCodes a b false).v = outOfRange (a.toInt - b.toInt) := by
    simp [differenceCodes, codesOf]
  have halow := a.le_toInt
  have hahigh := a.toInt_lt
  have hblow := b.le_toInt
  have hbhigh := b.toInt_lt
  rw [hn, hv, decide_bmod_neg (by omega) (by omega), Bool.bne_assoc, bne_self_eq_false, Bool.bne_false]
  exact decide_eq_decide.2 sub_neg

/-- Z of a difference says that its operands are equal. -/
theorem differenceCodes_z (a b : Word) : (differenceCodes a b false).z = decide (a = b) := by
  simp [differenceCodes, codesOf, BitVec.sub_eq_iff_eq_add]

/-- C of a difference says that there is no borrow. -/
theorem differenceCodes_c (a b : Word) : (differenceCodes a b false).c = decide (b.toNat ≤ a.toNat) := rfl

/-! ## SUB, NEG and CMP -/

/-- SUB subtracts a register, from 0 where its first field is 0 (45_add_subtract.md R211). -/
theorem execSub_runs {s2 : Nibble} (hs2 : s2 ≠ 0#4) (s : State) (dst s1 : Nibble) :
    Runs (execSub dst s1 s2 s) fun t =>
      RegisterEffect s t dst (regOrZero s s1 - s.reg s2) (differenceCodes (regOrZero s s1) (s.reg s2) false)
        (s.pc + 2#32) := by
  rw [execSub, requireNz_ne hs2]
  simpa using finishRegCc_addc32_compl_runs s 2#32 dst (regOrZero s s1) (s.reg s2) true

/-- Without a destination register only pc is written after the codes. -/
theorem RegisterEffect.pcEffect_of_codes {s t : State} {v pc : Word} {cc : Flags}
    (h : RegisterEffect s t 0#4 v cc pc) : PcEffect { s with cc := cc } t pc :=
  RegisterEffect.pcEffect (s := { s with cc := cc }) (v := v) h

/-- Settles O25: NEG is SUB from 0, and CMP is SUB with no register to write. -/
theorem subtractInstructionsSubtract : Obligations.SubtractInstructionsSubtract := by
  refine ⟨fun s dst s1 s2 hs2 => execSub_runs hs2 s dst s1, fun s dst s2 hs2 => execSub_runs hs2 s dst 0#4,
    fun s s1 s2 hs2 => (execSub_runs hs2 s 0#4 s1).imp fun t heffect => ?_⟩
  have ⟨_, hcc, _⟩ := heffect
  rw [hcc]
  exact ⟨heffect.pcEffect_of_codes, differenceCodes_n_bne_v _ _, differenceCodes_z _ _, differenceCodes_c _ _⟩

end Sys2Proof.Machine
end

section
/-! The Short Constant Format: the low bits of a word, TRUNC and SXT, and the branch by a register. -/

namespace Sys2Proof.Machine

/-! ## The low bits of a word -/

theorem toNat_zextLow (v : Word) (k : Nat) : (zextLow v k).toNat = v.toNat % 2 ^ k :=
  Nat.mod_eq_of_lt (Nat.lt_of_le_of_lt (Nat.mod_le _ _) v.isLt)

theorem zextLow_eq_setWidth (v : Word) (k : Nat) : zextLow v k = (v.extractLsb' 0 k).setWidth 32 := by
  rw [zextLow, ← BitVec.ofNat_toNat, BitVec.extractLsb'_toNat, Nat.shiftRight_zero]

/-- Reducing the word to its low bits first does not change their balanced remainder, the signed value. -/
theorem sextLow_eq_signExtend (v : Word) (k : Nat) : sextLow v k = (v.extractLsb' 0 k).signExtend 32 := by
  have hvalue : (v.extractLsb' 0 k).toInt = Int.bmod v.toNat (2 ^ k) := by
    rw [BitVec.toInt_eq_toNat_bmod, BitVec.extractLsb'_toNat, Nat.shiftRight_zero, Int.natCast_emod, Int.emod_bmod]
  rw [sextLow, BitVec.signExtend, hvalue]

/-- Doubling turns a count of halfwords into a count of bytes. -/
theorem zextLow_shiftLeft_one (v : Word) (k : Nat) :
    zextLow v k <<< 1 = BitVec.ofNat 32 (2 * (v.toNat % 2 ^ k)) := by
  rw [shiftLeft_eq_ofNat, toNat_zextLow, pow_one, Nat.mul_comm]

/-! ## TRUNC and SXT -/

theorem flags0Z_eq (r : Word) (vc : VC) :
    flags0Z r vc = { n := false, z := decide (r = 0#32), v := vc.v, c := vc.c } := rfl

/-- TRUNC writes back the low bits (46_short_constant.md R220). -/
theorem execTrunc_runs {dst : Nibble} (hdst : dst ≠ 0#4) (s : State) (b : Nibble) :
    let r := zextLow (s.reg dst) (bitCount b)
    Runs (execTrunc dst b s) fun t =>
      RegisterEffect s t dst r (flags0Z r (Config.ccTruncVC (s.reg dst) (bitCount b))) (s.pc + 2#32) := by
  intro r
  rw [execTrunc, requireNz_ne hdst]
  exact finishRegCc_runs s 2#32 dst r _

/-- SXT writes back the low bits with their sign extended (46_short_constant.md R221). -/
theorem execSxt_runs {dst : Nibble} (hdst : dst ≠ 0#4) (s : State) (b : Nibble) :
    let r := sextLow (s.reg dst) (bitCount b)
    Runs (execSxt dst b s) fun t =>
      RegisterEffect s t dst r (flagsNZ r (Config.ccSxtVC (s.reg dst) (bitCount b))) (s.pc + 2#32) := by
  intro r
  rw [execSxt, requireNz_ne hdst]
  exact finishRegCc_runs s 2#32 dst r _

/-- Settles O51: the remainders that the model writes are the low bits, zero-extended and sign-extended. -/
theorem truncAndSxtKeepTheLowBits : Obligations.TruncAndSxtKeepTheLowBits := by
  intro s dst b hdst old k low sx
  have hlow : zextLow old k = low := zextLow_eq_setWidth old k
  have hsx : sextLow old k = sx := sextLow_eq_signExtend old k
  rw [← flags0Z_eq, ← flagsNZ_eq_codesOf, ← hlow, ← hsx]
  exact ⟨execTrunc_runs hdst s b, execSxt_runs hdst s b⟩

/-! ## BTRUNC -/

/-- Going on at another address writes pc alone. -/
theorem setPc_runs (s : State) (pc : Word) : Runs (.next (s.setPc pc)) fun t => PcEffect s t pc :=
  ⟨_, rfl, (registerEffect_of (.inl rfl) 0#4 0#32 pc).pcEffect⟩

/-- BTRUNC is a branch by the low bits of its register (46_short_constant.md R222). -/
theorem execBtrunc_runs {dst : Nibble} (hdst : dst ≠ 0#4) (s : State) (b : Nibble) :
    Runs (execBtrunc dst b s) fun t =>
      PcEffect s t (s.pc + 2#32 + (zextLow (s.reg dst) (bitCount b) <<< 1)) := by
  rw [execBtrunc, requireNz_ne hdst]
  exact setPc_runs s _

/-- Settles O44: shifting the low bits left by one place counts them as halfwords. -/
theorem btruncBranchesByTheRegister : Obligations.BtruncBranchesByTheRegister :=
  fun s dst b hdst => zextLow_shiftLeft_one (s.reg dst) (bitCount b) ▸ execBtrunc_runs hdst s b

end Sys2Proof.Machine
end

section
/-! The Two Register Format: ADDC, SUBB and ROL, sums of double words, and the logical instructions. -/

namespace Sys2Proof.Machine

/-! ## ADDC, SUBB and ROL -/

/-- ADDC adds the carry (47_two_register.md R234). -/
theorem execAddc_runs (s : State) (dst src : Nibble) :
    let d := regOrZero s dst
    let a := regOrZero s src
    Runs (execAddc dst src s) fun t =>
      RegisterEffect s t dst (d + a + BitVec.ofNat 32 s.cc.c.toNat) (sumCodes d a s.cc.c) (s.pc + 2#32) :=
  finishRegCc_addc32_runs s 2#32 dst _ _ _

/-- SUBB subtracts the complement of the carry as a borrow (47_two_register.md R235). -/
theorem execSubb_runs (s : State) (dst src : Nibble) :
    let d := regOrZero s dst
    let a := regOrZero s src
    Runs (execSubb dst src s) fun t =>
      RegisterEffect s t dst (d - a - BitVec.ofNat 32 (!s.cc.c).toNat) (differenceCodes d a (!s.cc.c))
        (s.pc + 2#32) :=
  finishRegCc_addc32_compl_runs s 2#32 dst _ _ _

/-- Doubling clears bit 0, so adding a carry sets that bit alone. -/
theorem add_self_add_carry (d : Word) (carry : Bool) :
    d + d + BitVec.ofNat 32 carry.toNat = (d <<< 1) ||| BitVec.ofNat 32 carry.toNat := by
  have hdouble : d + d = d <<< 1 := by rw [BitVec.shiftLeft_eq_mul_twoPow]; bv_omega
  have hdisjoint : d <<< 1 &&& BitVec.ofNat 32 carry.toNat = 0#32 := by
    cases carry with
    | false => exact BitVec.and_zero
    | true => ext i hi; cases i <;> simp
  rw [hdouble, BitVec.add_eq_or_of_and_eq_zero _ _ hdisjoint]

/-- The codes of a doubling: bit 30 moves into the sign and bit 31 into the carry (47_two_register.md R237). -/
theorem sumCodes_self (d : Word) (carry : Bool) :
    sumCodes d d carry = codesOf (d + d + BitVec.ofNat 32 carry.toNat) (d[31] != d[30]) d[31] := by
  have hsign : (d + d + BitVec.ofNat 32 carry.toNat).msb = d[30] := by
    rw [add_self_add_carry, word_msb]
    cases carry <;> simp
  have hv : outOfRange (d.toInt + d.toInt + carry.toNat) = (d[31] != d[30]) := by
    rw [← addc32_v_eq_outOfRange, ← hsign, ← word_msb, ← addc32_fst, bne_comm]
    simp [addc32]
  have hc : decide (2 ^ 32 ≤ d.toNat + d.toNat + carry.toNat) = d[31] := by
    have hcarry := carry.toNat_le
    rw [← word_msb, BitVec.msb_eq_decide]
    exact decide_eq_decide.2 (by omega)
  rw [sumCodes, hv, hc]

/-- ROL adds a register to itself with the carry (47_two_register.md R237). -/
theorem execRol_runs (s : State) (dst : Nibble) :
    let d := regOrZero s dst
    let r := (d <<< 1) ||| BitVec.ofNat 32 s.cc.c.toNat
    Runs (execRol dst s) fun t =>
      RegisterEffect s t dst r (codesOf r (d[31] != d[30]) d[31]) (s.pc + 2#32) := by
  simpa only [execRol, sumCodes_self, add_self_add_carry] using execAddc_runs s dst dst

/-- Settles O26: a subtraction's carry in is the borrow complemented, and ROL is ADDC of a register to itself. -/
theorem carryInstructionsTakeTheCarry : Obligations.CarryInstructionsTakeTheCarry :=
  ⟨execAddc_runs, execSubb_runs, execRol_runs⟩

/-! ## Double words -/

/-- The high word of a double word counts units of 2^32. -/
theorem toNat_append_word (h l : Word) : (h ++ l : BitVec 64).toNat = h.toNat * 2 ^ 32 + l.toNat := by
  rw [BitVec.toNat_append, ← Nat.shiftLeft_add_eq_or_of_lt l.isLt, Nat.shiftLeft_eq]

/-- The carry out of the low words goes into the high words. -/
theorem append_add_append (h l h' l' : Word) :
    ((h + h' + BitVec.ofNat 32 (sumCodes l l' false).c.toNat) ++ (l + l') : BitVec 64) = (h ++ l) + (h' ++ l') := by
  have hcarry : (sumCodes l l' false).c.toNat = (l.toNat + l'.toNat) / 2 ^ 32 := by
    simpa [addc32_snd] using addc32_c_toNat l l' false
  apply BitVec.eq_of_toNat_eq
  rw [hcarry, BitVec.toNat_add, toNat_append_word, toNat_append_word, toNat_append_word]
  bv_omega

/-- Settles O27: ADD leaves the carry of the low words for ADDC and does not touch the high words. -/
theorem addThenAddcAddsDoubleWords : Obligations.AddThenAddcAddsDoubleWords := by
  intro s low high lowAddend highAddend hlow hhigh hlowAddend hhighAddend hne hne'
  refine (execAdd_runs hlow hlowAddend s low).imp fun t hadd => (execAddc_runs t high highAddend).imp fun u haddc => ?_
  obtain ⟨⟨hsum, hother⟩, hcc, -⟩ := hadd
  obtain ⟨⟨hsum', hother'⟩, -⟩ := haddc
  rw [hsum' hhigh, hother' low hlow hne.symm, hsum hlow, regOrZero_ne hhigh, regOrZero_ne hhighAddend,
    hother high hhigh hne, hother highAddend hhighAddend hne', hcc]
  exact append_add_append _ _ _ _

/-! ## AND, OR, EQU and NOT -/

/-- EQU, bit by bit: 1 where both words have the same bit (47_two_register.md R232). -/
theorem getLsbD_compl_xor (a b : Word) {j : Nat} (hj : j < 32) :
    (~~~(a ^^^ b)).getLsbD j = (a.getLsbD j == b.getLsbD j) := by
  rw [BitVec.getLsbD_not, BitVec.getLsbD_xor, decide_eq_true hj, Bool.true_and]
  cases a.getLsbD j <;> cases b.getLsbD j <;> rfl

theorem getLsbD_regOrZero (s : State) (n : Nibble) (j : Nat) :
    (regOrZero s n).getLsbD j = if n = 0#4 then false else (s.reg n).getLsbD j := by
  unfold regOrZero
  split
  · exact BitVec.getLsbD_zero
  · rfl

theorem execAnd_runs {dst src : Nibble} (hdst : dst ≠ 0#4) (hsrc : src ≠ 0#4) (s : State) :
    let r := s.reg dst &&& s.reg src
    Runs (execAnd dst src s) fun t => RegisterEffect s t dst r (codesOf r false false) (s.pc + 2#32) := by
  intro r
  rw [execAnd, requireNz_ne hdst, requireNz_ne hsrc]
  exact finishRegCc_runs s 2#32 dst r _

theorem execOr_runs {dst src : Nibble} (hdst : dst ≠ 0#4) (hsrc : src ≠ 0#4) (s : State) :
    let r := s.reg dst ||| s.reg src
    Runs (execOr dst src s) fun t => RegisterEffect s t dst r (codesOf r false false) (s.pc + 2#32) := by
  intro r
  rw [execOr, requireNz_ne hdst, requireNz_ne hsrc]
  exact finishRegCc_runs s 2#32 dst r _

theorem execEqu_runs {dst : Nibble} (hdst : dst ≠ 0#4) (s : State) (src : Nibble) :
    let r := ~~~(s.reg dst ^^^ regOrZero s src)
    Runs (execEqu dst src s) fun t => RegisterEffect s t dst r (codesOf r false false) (s.pc + 2#32) := by
  intro r
  rw [execEqu, requireNz_ne hdst]
  exact finishRegCc_runs s 2#32 dst r _

/-- NOT is EQU with 0 (47_two_register.md R236). -/
theorem execNot_runs {dst : Nibble} (hdst : dst ≠ 0#4) (s : State) :
    let r := ~~~(s.reg dst)
    Runs (execNot dst s) fun t => RegisterEffect s t dst r (codesOf r false false) (s.pc + 2#32) := by
  simpa only [execNot, regOrZero_zero, BitVec.xor_zero] using execEqu_runs hdst s 0#4

/-- Settles O52: the register that holds the result of EQU is known bit by bit. -/
theorem logicalInstructionsClearVAndC : Obligations.LogicalInstructionsClearVAndC := by
  refine fun s dst hdst => ⟨fun src hsrc => ⟨execAnd_runs hdst hsrc s, execOr_runs hdst hsrc s⟩,
    fun src => (execEqu_runs hdst s src).imp fun t heffect => ?_, execNot_runs hdst s⟩
  have ⟨⟨hreg, _⟩, _⟩ := heffect
  rw [← hreg hdst] at heffect
  obtain ⟨hwritten, hrest⟩ := heffect
  refine ⟨hwritten, fun j hj => ?_, hrest⟩
  rw [hreg hdst, getLsbD_compl_xor _ _ hj, getLsbD_regOrZero]

end Sys2Proof.Machine
end

section
/-! The Special Format: ADJUST and PLUS, COGET and COSET, CPUGET and CPUSET, and the return from trap. -/

namespace Sys2Proof.Machine

/-! ## ADJUST and PLUS -/

/-- ADJUST adds an entry that the configuration defines (48_special.md R245). -/
theorem execAdjust_runs {s : State} {dst src : Nibble} (hdst : dst ≠ 0#4) (hdef : adjDefined s.config src = true) :
    Runs (execAdjust dst src s) fun t =>
      RegisterEffect s t dst (s.reg dst + adjEntry src s.pswWord) s.cc (s.pc + 2#32) := by
  rw [execAdjust, requireNz_ne hdst, if_pos hdef]
  exact finishReg_runs s 2#32 dst _

/-- ADJUST by an entry that the configuration does not define (60_exceptions.md R307). -/
theorem execAdjust_refused {s : State} {dst src : Nibble} (hdst : dst ≠ 0#4)
    (hdef : adjDefined s.config src = false) : execAdjust dst src s = .refused (.adjUnmapped src) := by
  simp [execAdjust, requireNz_ne hdst, hdef]

/-- The configuration decides which of the low entries are defined (log entry 11). -/
theorem adjDefined_low (cfg : Config) {src : Nibble} (h : src < 8#4) :
    adjDefined cfg src = cfg.adjMap.getLsbD src.toNat := by
  simp [adjDefined, BitVec.not_le.2 h]

theorem adjEntry_low {src : Nibble} (h : src < 8#4) (status : Word) :
    adjEntry src status = Config.adjOpen src status :=
  if_neg (BitVec.not_le.2 h)

/-- Entry 8 + i is 2^i (48_special.md R245). -/
theorem adjEntry_high {src : Nibble} (h : 8#4 ≤ src) (status : Word) :
    adjEntry src status = BitVec.ofNat 32 (2 ^ (src.toNat - 8)) := by
  rw [adjEntry, if_pos h, shiftLeft_eq_ofNat, BitVec.toNat_ofNat, Nat.one_mod, Nat.one_mul]

/-- PLUS adds a register, or pc as the instruction sees it (48_special.md R246). -/
theorem execPlus_runs {dst : Nibble} (hdst : dst ≠ 0#4) (s : State) (src : Nibble) :
    Runs (execPlus dst src s) fun t =>
      RegisterEffect s t dst (s.reg dst + regOrPc s src 2#32) s.cc (s.pc + 2#32) := by
  rw [execPlus, requireNz_ne hdst]
  exact finishReg_runs s 2#32 dst _

/-- Settles O33: the high entries are defined in every configuration, the low ones where its map says so. -/
theorem adjustAndPlusLeaveTheCodes : Obligations.AdjustAndPlusLeaveTheCodes := by
  refine ⟨fun s dst src hdst hhigh => ?_, fun s dst src hdst hlow hmap => ?_, fun s dst src hdst hlow hmap => ?_,
    fun s dst src hdst => execPlus_runs hdst s src⟩
  · exact adjEntry_high hhigh s.pswWord ▸ execAdjust_runs hdst (adjDefined_high hhigh)
  · exact execAdjust_refused hdst ((adjDefined_low s.config hlow).trans hmap)
  · exact adjEntry_low hlow s.pswWord ▸ execAdjust_runs hdst ((adjDefined_low s.config hlow).trans hmap)

/-! ## COGET and COSET -/

section coprocessor

variable {s : State} {r k : Nibble}

/-- COGET, where it is allowed and a coprocessor answers (48_special.md R247). -/
theorem execCoget_runs (hpriv : s.privDenied s.config.priv.coget = false) (hpresent : s.coPresent k = true) :
    let v := Config.coRead s.draws k s.co
    Runs (execCoget r k s) fun t => RegisterEffect s t r v (Config.ccCoget k v) (s.pc + 2#32) := by
  intro v
  have hrun : execCoget r k s = finishRegCc s.draw 2#32 r v (Config.ccCoget k v) := by
    simp [execCoget, hpriv, hpresent, v]
  exact hrun ▸ ⟨_, rfl, registerCcEffect_of (.inr rfl) r v _ _⟩

/-- COSET, likewise (48_special.md R248). -/
theorem execCoset_present (hpriv : s.privDenied s.config.priv.coset = false) (hpresent : s.coPresent k = true) :
    execCoset r k s = .next ((s.setCoReg k (regOrZero s r)).setPc (s.pc + 2#32)) := by
  simp [execCoset, hpriv, hpresent]

theorem execCoget_denied (hpriv : s.privDenied s.config.priv.coget = true) :
    execCoget r k s = raise s (.priv (halfOf 3#4 k 1#4 r)) := if_pos hpriv

theorem execCoset_denied (hpriv : s.privDenied s.config.priv.coset = true) :
    execCoset r k s = raise s (.priv (halfOf 2#4 k 1#4 r)) := if_pos hpriv

theorem execCoget_absent (hpriv : s.privDenied s.config.priv.coget = false) (habsent : s.coPresent k = false) :
    execCoget r k s = raise s (.coproc k) := by
  simp [execCoget, hpriv, habsent]

theorem execCoset_absent (hpriv : s.privDenied s.config.priv.coset = false) (habsent : s.coPresent k = false) :
    execCoset r k s = raise s (.coproc k) := by
  simp [execCoset, hpriv, habsent]

end coprocessor

/-- Settles O53: COSET writes one entry of co[ ] and goes on. -/
theorem coprocessorAccessWhenPresent : Obligations.CoprocessorAccessWhenPresent := by
  refine fun s r k hpresent => ⟨fun hpriv => execCoget_runs hpriv hpresent, fun hpriv =>
    ⟨_, execCoset_present hpriv hpresent, ?_, fun m hm => ?_, fun _ _ => rfl, rfl, rfl, rfl, fun _ => rfl, rfl, rfl,
      rfl, fun _ => rfl, rfl, rfl⟩⟩
  · rw [State.coReg_setPc, State.coReg_setCoReg, if_pos rfl]
    rfl
  · rw [State.coReg_setPc, State.coReg_setCoReg, if_neg hm]

/-! ## CPUGET and CPUSET -/

section special

variable {s : State} {r k : Nibble}

theorem execCpuget_denied (hpriv : s.privDenied s.config.priv.cpuget = true) :
    execCpuget r k s = raise s (.priv (halfOf 1#4 k 1#4 r)) := if_pos hpriv

theorem execCpuset_denied (hpriv : s.privDenied s.config.priv.cpuset = true) :
    execCpuset r k s = raise s (.priv (halfOf 0#4 k 1#4 r)) := if_pos hpriv

/-- The return from trap consults `PRIV` under both its names (log entry 15). -/
theorem execCpuget_rtt_denied
    (hpriv : s.privDenied s.config.priv.cpuget = true ∨ s.privDenied s.config.priv.rtt = true) :
    execCpuget 0#4 1#4 s = raise s (.priv 0x1110#16) := by
  by_cases hcpuget : s.privDenied s.config.priv.cpuget = true
  · exact execCpuget_denied hcpuget
  · have hrtt := hpriv.resolve_left hcpuget
    simp [execCpuget, hcpuget, hrtt, halfOf]

/-- Without a register to write, only tpc may be named (log entry 17). -/
theorem execCpuget_zero_refused (hpriv : s.privDenied s.config.priv.cpuget = false) (hk : k ≠ 1#4) :
    execCpuget 0#4 k s = .refused (.cpugetPc k) := by
  simp [execCpuget, hpriv, hk]

theorem execCpuget_unmapped (hpriv : s.privDenied s.config.priv.cpuget = false) (hr : r ≠ 0#4)
    (hdef : cpuDefined s.config k = false) : execCpuget r k s = .refused (.cpuUnmapped k) := by
  simp [execCpuget, hpriv, hr, hdef]

theorem execCpuset_unmapped (hpriv : s.privDenied s.config.priv.cpuset = false)
    (hdef : cpuDefined s.config k = false) : execCpuset r k s = .refused (.cpuUnmapped k) := by
  simp [execCpuset, hpriv, hdef]

/-- CPUGET of a stored entry into a register (48_special.md R249). -/
theorem execCpuget_runs (hpriv : s.privDenied s.config.priv.cpuget = false) (hr : r ≠ 0#4) (hk : k ≠ 0#4)
    (hdef : cpuDefined s.config k = true) :
    Runs (execCpuget r k s) fun t => RegisterEffect s t r (s.cpuReg k) s.cc (s.pc + 2#32) := by
  have hrun : execCpuget r k s = finishReg s 2#32 r (s.cpuReg k) := by
    simp [execCpuget, hpriv, hr, hdef, State.afterCpuRead, State.cpuRead, hk]
  exact hrun ▸ finishReg_runs s 2#32 r _

/-- CPUSET of a stored entry (48_special.md R250). -/
theorem execCpuset_stored (hpriv : s.privDenied s.config.priv.cpuset = false) (hk : k ≠ 0#4)
    (hdef : cpuDefined s.config k = true) :
    execCpuset r k s = .next ((s.setCpuReg k (regOrZero s r)).setPc (s.pc + 2#32)) := by
  simp [execCpuset, hpriv, hdef, State.cpuWrite, hk]

end special

theorem cpuDefined_iff (cfg : Config) (k : Nibble) :
    cpuDefined cfg k = true ↔ k = 1#4 ∨ cfg.cpuMap.getLsbD k.toNat = true := by
  simp [cpuDefined]

/-- Settles O55: an entry other than 0 is not the status word, so both go to the stored file. -/
theorem cpuEntriesAreStoredUnchanged : Obligations.CpuEntriesAreStoredUnchanged := by
  intro s r k hk hmap
  have hdef : cpuDefined s.config k = true := (cpuDefined_iff s.config k).2 hmap
  refine ⟨fun hr hpriv => execCpuget_runs hpriv hr hk hdef, fun hpriv =>
    ⟨_, execCpuset_stored hpriv hk hdef, ?_, fun m hm => ?_, fun _ _ => rfl, rfl, rfl, rfl, fun _ => rfl, rfl, rfl,
      rfl, fun _ => rfl, rfl, rfl⟩⟩
  · rw [State.cpuReg_setPc, State.cpuReg_setCpuReg, if_pos ⟨rfl, hk⟩]
    rfl
  · rw [State.cpuReg_setPc, State.cpuReg_setCpuReg, if_neg fun h => hm h.1]

/-! ## The checks (60_exceptions.md R311) -/

theorem raises_of_eq {s : State} {o : Result} {f : Fault} (h : o = raise s f) : Raises s o f :=
  h ▸ raise_raises s f

/-- Settles O54: each meaning asks `PRIV` first, then whether the coprocessor or the entry is there. -/
theorem specialAccessIsChecked : Obligations.SpecialAccessIsChecked := by
  refine ⟨fun s r k habsent => ⟨fun hpriv => ?_, fun hpriv => ?_⟩,
    fun s r k => ⟨fun hpriv => ?_, fun hpriv => ?_, fun hpriv => ?_, fun hpriv => ?_⟩,
    fun s hpriv => ?_, fun s r k hk => ⟨fun hpriv => ?_, fun hmap => ?_⟩⟩
  · exact raises_of_eq (execCoget_absent hpriv habsent)
  · exact raises_of_eq (execCoset_absent hpriv habsent)
  · exact raises_of_eq (execCoget_denied hpriv)
  · exact raises_of_eq (execCoset_denied hpriv)
  · exact raises_of_eq (execCpuget_denied hpriv)
  · exact raises_of_eq (execCpuset_denied hpriv)
  · have hraises : Raises s (execCpuget 0#4 1#4 s) (.priv 0x1110#16) := raises_of_eq (execCpuget_rtt_denied hpriv)
    exact ⟨hraises, hraises⟩
  · exact execCpuget_zero_refused hpriv hk
  · have hdef : cpuDefined s.config k = false := by simp [cpuDefined, hk, hmap]
    exact ⟨fun hr hpriv => execCpuget_unmapped hpriv hr hdef, fun hpriv => execCpuset_unmapped hpriv hdef⟩

/-! ## The return from trap -/

/-- The return from trap, where it is allowed, to an even address (60_exceptions.md R312). -/
theorem execCpuget_rtt_runs {s : State} (heven : s.tpc[0] = false)
    (hcpuget : s.privDenied s.config.priv.cpuget = false) (hrtt : s.privDenied s.config.priv.rtt = false) :
    Runs (execCpuget 0#4 1#4 s) fun t => PcEffect { s with level := s.prior } t s.tpc := by
  rw [execCpuget_rtt hcpuget hrtt, returnFromTrap, jump_even heven]
  exact setPc_runs { s with level := s.prior } s.tpc

/-- Settles O57: RTT is CPUGET 0,1. -/
theorem rttRestoresPcAndLevel : Obligations.RttRestoresPcAndLevel := by
  intro s heven hcpuget hrtt
  have hrun := execCpuget_rtt_runs heven hcpuget hrtt
  exact ⟨hrun, hrun⟩

end Sys2Proof.Machine
end

section
/-! The Branch Format: where the branches lead, by the codes and after a comparison. -/

namespace Sys2Proof.Machine

/-- Instruction `i` goes to the target of `disp` where `taken` holds, else on, and writes pc alone. -/
def BranchesIf (s : State) (disp : Byte) (i : Instr) (taken : Bool) : Prop :=
  Runs (exec i s) fun t => PcEffect s t (if taken then targetOf s.pc disp else s.pc + 2#32)

theorem branchesIf_of_eq {s : State} {disp : Byte} {i : Instr} {taken : Bool}
    (h : exec i s = branchIf taken disp s) : BranchesIf s disp i taken := by
  rw [BranchesIf, h]
  exact branchIf_runs taken disp s

/-! ## The branches on the codes -/

/-- A displacement of 0 leads to the next instruction, so NOP goes on (49_branch.md R267). -/
theorem execNop_runs (s : State) : Runs (execNop s) fun t => PcEffect s t (s.pc + 2#32) := by
  have htarget : targetOf s.pc 0#8 = s.pc + 2#32 := by simp [targetOf]
  exact htarget ▸ branchIf_runs true 0#8 s

/-- Settles O58: each of these is a branch by its condition. -/
theorem branchesFollowTheirConditions : Obligations.BranchesFollowTheirConditions := by
  intro s disp goes
  have hgoes (taken : Bool) := branchIf_runs taken disp s
  exact ⟨hgoes _, hgoes _, hgoes _, hgoes _, hgoes _, hgoes _, hgoes _, hgoes _, hgoes _, hgoes _, hgoes _, hgoes _,
    hgoes _, hgoes _, hgoes _, execNop_runs s⟩

/-! ## The signed branches -/

/-- The signed branches go by the switch's sense of less (49_branch.md R268, R274, R275, R281, R282). -/
theorem signedBranches_run {s : State} {sense : SignedCond} (h : s.config.signedCond = sense) (disp : Byte) :
    BranchesIf s disp (.blt disp) (signedLess sense s.cc) ∧
    BranchesIf s disp (.ble disp) (signedLess sense s.cc || s.cc.z) ∧
    BranchesIf s disp (.bge disp) (!signedLess sense s.cc) ∧
    BranchesIf s disp (.bgt disp) (!signedLess sense s.cc && !s.cc.z) := by
  subst h
  exact ⟨branchIf_runs _ disp s, branchIf_runs _ disp s, branchIf_runs _ disp s, branchIf_runs _ disp s⟩

/-- BBS and BBR go by the code that holds the tested bit (43_shift.md R191). -/
theorem bitBranches_run {b : BitVec 5} {bit : Bool} {s : State} (hbit : testedCode b s.cc = bit) (disp : Byte) :
    BranchesIf s disp (.bbs b disp) bit ∧ BranchesIf s disp (.bbr b disp) (!bit) := by
  subst hbit
  exact ⟨branchesIf_of_eq (execBbs_eq_branchIf b disp s), branchesIf_of_eq (execBbr_eq_branchIf b disp s)⟩

/-- Settles O59: the switch gives the sense of less, and the tested bit's number the code that BBS and BBR test. -/
theorem signedBranchesFollowTheSwitch : Obligations.SignedBranchesFollowTheSwitch := by
  refine fun s disp => ⟨fun hprinted => signedBranches_run hprinted disp, fun hconventional => ?_,
    fun b hb => bitBranches_run (testedCode_high hb s.cc) disp,
    fun b hb => bitBranches_run (testedCode_low (Nat.not_le_of_lt hb) s.cc) disp⟩
  have hnot : (!signedLess .conventional s.cc) = (s.cc.n == s.cc.v) := Bool.not_not _
  exact hnot ▸ signedBranches_run hconventional disp

/-! ## The branches after a comparison (49_branch.md R288) -/

/-- Where a branch leads, told by a condition equal to its own. -/
theorem BranchesIf.pc {s : State} {disp : Byte} {i : Instr} {cond taken : Bool} (h : BranchesIf s disp i cond)
    (hcond : cond = taken) : Runs (exec i s) fun t => t.pc = if taken then targetOf s.pc disp else s.pc + 2#32 := by
  subst hcond
  exact h.imp fun _ ⟨_, _, hpc, _⟩ => hpc

section comparison

variable (a b : Word)

theorem differenceCodes_n : (differenceCodes a b false).n = (a - b).msb := by
  simp [differenceCodes, codesOf]

theorem differenceCodes_v : (differenceCodes a b false).v = outOfRange (a.toInt - b.toInt) := by
  simp [differenceCodes, codesOf]

/-- The conditions of the unsigned branches and of BNE compare the operands as unsigned integers. -/
theorem differenceCodes_unsigned :
    let f := differenceCodes a b false
    (!f.z) = decide (a ≠ b) ∧ (!f.c) = decide (a.toNat < b.toNat) ∧ (f.c && !f.z) = decide (b.toNat < a.toNat) ∧
    (!f.c || f.z) = decide (a.toNat ≤ b.toNat) := by
  simp only [differenceCodes_z, differenceCodes_c, ne_eq, ← BitVec.toNat_inj, ← decide_not, ← Bool.decide_and,
    ← Bool.decide_or, decide_eq_decide, true_and]
  and_intros <;> omega

/-- The conditions of the signed branches as printed: the sense of less is at least (49_branch.md R268). -/
theorem differenceCodes_printed :
    let f := differenceCodes a b false
    let less := signedLess .printed f
    less = decide (b.toInt ≤ a.toInt) ∧ (!less) = decide (a.toInt < b.toInt) ∧
    (less || f.z) = decide (b.toInt ≤ a.toInt) ∧ (!less && !f.z) = decide (a.toInt < b.toInt) := by
  have hless : signedLess .printed (differenceCodes a b false) = decide (¬ a.toInt < b.toInt) := by
    rw [decide_not, ← differenceCodes_n_bne_v]
    exact (Bool.not_not _).symm
  simp only [hless, differenceCodes_z, ← BitVec.toInt_inj, ← decide_not, ← Bool.decide_and,
    ← Bool.decide_or, decide_eq_decide]
  and_intros <;> omega

/-- The conditions of the signed branches in the conventional sense. -/
theorem differenceCodes_conventional :
    let f := differenceCodes a b false
    let less := signedLess .conventional f
    less = decide (a.toInt < b.toInt) ∧ (!less) = decide (b.toInt ≤ a.toInt) ∧
    (less || f.z) = decide (a.toInt ≤ b.toInt) ∧ (!less && !f.z) = decide (b.toInt < a.toInt) := by
  have hless : signedLess .conventional (differenceCodes a b false) = decide (a.toInt < b.toInt) :=
    differenceCodes_n_bne_v a b
  simp only [hless, differenceCodes_z, ← BitVec.toInt_inj, ← decide_not, ← Bool.decide_and,
    ← Bool.decide_or, decide_eq_decide, true_and]
  and_intros <;> omega

end comparison

/-- Settles O60: CMP leaves the codes of the difference, and each branch's condition on them is the table's relation. -/
theorem compareThenBranchTable : Obligations.CompareThenBranchTable := by
  intro s s1 s2 disp hs2 a b
  refine (execSub_runs hs2 s 0#4 s1).imp fun t heffect => ?_
  obtain ⟨-, hcc, -, -, -, -, hconfig, -⟩ := heffect
  obtain ⟨-, hbns, -, hbvs, -, hbleu, hbnr, -, hbvr, -, hbgtu, hbltu, hbne, hbgeu, hbeq, -⟩ :=
    branchesFollowTheirConditions t disp
  have hsigned {sense : SignedCond} (h : s.config.signedCond = sense) := signedBranches_run (hconfig ▸ h) disp
  rw [hcc] at hbns hbvs hbleu hbnr hbvr hbgtu hbltu hbne hbgeu hbeq
  have hpc {i : Instr} {cond taken : Bool} (h : BranchesIf t disp i cond) (hcond : cond = taken) := h.pc hcond
  obtain ⟨hne, hltu, hgtu, hleu⟩ := differenceCodes_unsigned a b
  have hv := differenceCodes_v a b
  have hn := differenceCodes_n a b
  refine ⟨hpc hbeq (differenceCodes_z a b), hpc hbne hne, hpc hbgeu rfl, hpc hbltu hltu, hpc hbgtu hgtu,
    hpc hbleu hleu, hpc hbns hn, hpc hbnr (congrArg _ hn), hpc hbvs hv, hpc hbvr (congrArg _ hv), fun h => ?_,
    fun h => ?_⟩
  · obtain ⟨hblt, hble, hbge, hbgt⟩ := hsigned h
    rw [hcc] at hblt hble hbge hbgt
    obtain ⟨hlt, hge, hle, hgt⟩ := differenceCodes_printed a b
    exact ⟨hblt.pc hlt, hbge.pc hge, hble.pc hle, hbgt.pc hgt⟩
  · obtain ⟨hblt, hble, hbge, hbgt⟩ := hsigned h
    rw [hcc] at hblt hble hbge hbgt
    obtain ⟨hlt, hge, hle, hgt⟩ := differenceCodes_conventional a b
    exact ⟨hblt.pc hlt, hbge.pc hge, hble.pc hle, hbgt.pc hgt⟩

end Sys2Proof.Machine
end

section
/-! Exceptions: raising a fault, the order of a fetch's checks, which instructions fault, and what changes the level. -/

namespace Sys2Proof.Machine

/-! ## Raising a fault and returning from the trap -/

/-- A handler at an odd address cannot be written to pc (10_state.md R28). -/
theorem raise_odd_handler {s : State} {f : Fault} {handler : Word}
    (h : trapVector s.config.traps f = some handler) (hodd : handler[0] = true) :
    raise s f = .fault (.pcOdd handler) := by
  simp [raise, h, hodd]

theorem raise_runs {s : State} {f : Fault} {handler : Word} (h : trapVector s.config.traps f = some handler)
    (heven : handler[0] = false) : Runs (raise s f) fun t => TrapEntry s t f handler :=
  ⟨_, raise_handled h heven, takeTrap_trapEntry s f handler⟩

/-- Settles O21: the configuration's vector for the fault decides between the three outcomes. -/
theorem raisingAFaultIsTerminalOrTraps : Obligations.RaisingAFaultIsTerminalOrTraps :=
  fun _ _ => ⟨raise_terminal, fun _ => raise_runs, fun _ => raise_odd_handler⟩

/-- Settles O22: the trap puts pc and the level where RTT takes them from, and neither touches the rest. -/
theorem trapThenRttReturns : Obligations.TrapThenRttReturns := by
  intro s f h hvector hhandler hpc hcpuget hrtt
  refine (raise_runs hvector hhandler).imp fun t htrap => ?_
  obtain ⟨-, htpc, hprior, hlevel, hresv, -, -, hregs, hcc, hbcd, hco, hmem, hconfig, hdevice⟩ := htrap
  have hallowed {mask : Half} (hmask : mask[0] = false) : t.privDenied mask = false := by
    rw [State.privDenied, hlevel]
    exact hmask
  rw [← hconfig] at hcpuget hrtt
  refine (execCpuget_rtt_runs (htpc ▸ hpc) (hallowed hcpuget) (hallowed hrtt)).imp fun u hreturn => ?_
  obtain ⟨hregs', hcc', hpc', hresv', hmem', ⟨hlevel', hprior', hbcd', hcpu', hco'⟩, hconfig', hdevice'⟩ := hreturn
  exact ⟨hpc'.trans htpc, hlevel'.trans hprior, hprior'.trans hprior, (hcpu' 1#4).trans htpc, hresv'.trans hresv,
    fun n hn => (hregs' n hn).trans (hregs n hn), hcc'.trans hcc, hbcd'.trans hbcd, fun k => (hco' k).trans (hco k),
    fun a => (hmem' a).trans (hmem a), hconfig'.trans hconfig, hdevice'.trans hdevice⟩

/-! ## Accesses that MEMMAP forbids (60_exceptions.md R302) -/

theorem loadThen_raises {s : State} {ea : Word} (h : s.readable ea = false) (k : Word → State → Result) :
    Raises s (loadThen s ea k) (.bus (wordAlign ea)) :=
  raises_of_eq (loadThen_unreadable h)

/-- LOADS and LOAD of a word that is not readable. -/
theorem loadRegOrPc_raises {s : State} {ea : Word} (h : s.readable ea = false) (len : Word) (dst : Nibble) :
    Raises s (loadThen s ea fun v s' => finishRegOrPc s' len dst v) (.bus (wordAlign ea)) :=
  loadThen_raises h _

/-- LOADSCC and LOADCC, likewise. -/
theorem loadRegCc_raises {s : State} {ea : Word} (h : s.readable ea = false) (len : Word) (dst : Nibble) :
    Raises s (loadThen s ea fun v s' => finishRegCc s' len dst v (flagsNZ v (Config.ccLoadVC v)))
      (.bus (wordAlign ea)) :=
  loadThen_raises h _

theorem execLoadl_raises {s : State} {x : Nibble} (hx : x ≠ 0#4) (h : s.readable (s.reg x) = false) (dst : Nibble) :
    Raises s (execLoadl dst x s) (.bus (wordAlign (s.reg x))) := by
  rw [execLoadl, requireNz_ne hx]
  exact loadThen_raises h _

theorem storeThen_raises {s : State} {ea : Word} (h : s.writable ea = false) (len v : Word) :
    Raises s (storeThen s len ea v) (.bus (wordAlign ea)) :=
  raises_of_eq (by simp [storeThen, h])

theorem execStores_raises {s : State} {x : Nibble} (hx : x ≠ 0#4) (h : s.writable (s.reg x) = false)
    (srcx : Nibble) : Raises s (execStores srcx x s) (.bus (wordAlign (s.reg x))) := by
  rw [execStores, requireNz_ne hx]
  exact storeThen_raises h _ _

/-- Settles O40: every load and store asks for its word before it does anything else. -/
theorem unmappedAccessRaisesBus : Obligations.UnmappedAccessRaisesBus := by
  refine ⟨fun s r x => ?_, fun s r x disp hread => ?_, fun s r x hx hwrite => execStores_raises hx hwrite r,
    fun s r x disp hwrite => storeThen_raises hwrite 4#32 (regOrZero s r)⟩
  · intro ea hread
    refine ⟨loadRegOrPc_raises hread 2#32 r, loadRegCc_raises hread 2#32 r, loadRegCc_raises hread 2#32 0#4,
      fun hx => ?_⟩
    have hea : ea = s.reg x := if_neg hx
    rw [hea] at hread ⊢
    exact execLoadl_raises hx hread r
  · exact ⟨loadRegOrPc_raises hread 4#32 r, loadRegCc_raises hread 4#32 r, loadRegCc_raises hread 4#32 0#4⟩

/-! ## The checks of a fetch (60_exceptions.md R311) -/

theorem step_of_fetch_fault {s : State} {f : Fault} (h : fetch s = .fault f) : Raises s (step s) f :=
  raises_of_eq (by simp [step, h, runFetched])

theorem step_of_fetch_refused {s : State} {r : Refusal} (h : fetch s = .refused r) : step s = .refused r := by
  simp [step, h, runFetched]

section fetch

variable {s : State} {J : Half}

/-- The first check: `MEMMAP` on the first halfword. -/
theorem fetch_unexecutable (h : s.executable s.pc = false) : fetch s = .fault (.bus s.pc) := by
  simp [fetch, h]

/-- A reserved operand is refused on the first halfword alone. -/
theorem fetch_reserved {m : String} {f : Field} (hpc : s.executable s.pc = true)
    (hdec : decode (s.halfAt s.pc) J = .reserved m f) : fetch s = .refused (.reservedOperand m f) := by
  have hfirst : decode (s.halfAt s.pc) 0#16 = .reserved m f := by
    rw [decode_reserved] at hdec ⊢
    exact (reservedOperand_decodeRow _ _ J).trans hdec
  simp [fetch, hpc, hfirst]

/-- The second halfword of an unassigned encoding is never fetched (41_memory_reference.md R157). -/
theorem fetch_unassigned {i : Instr} (hpc : s.executable s.pc = true) (hdec : decode (s.halfAt s.pc) J = .ok i)
    (hi : isUnassigned i = true) :
    fetch s = .ok (decodeRow (s.halfAt s.pc) 0#16) ∧ isUnassigned (decodeRow (s.halfAt s.pc) 0#16) = true := by
  obtain ⟨hfirst, hkind⟩ := decode_ok_any_second hdec 0#16
  rw [hi] at hkind
  exact ⟨by simp [fetch, hpc, hfirst, hkind], hkind⟩

/-- The last check: `MEMMAP` on the second halfword of any other four-byte instruction. -/
theorem fetch_second_unexecutable {i : Instr} (hpc : s.executable s.pc = true)
    (hdec : decode (s.halfAt s.pc) J = .ok i) (hi : isUnassigned i = false) (hlen : lengthOf i = 4#32)
    (hsecond : s.executable (s.pc + 2#32) = false) : fetch s = .fault (.bus (s.pc + 2#32)) := by
  obtain ⟨hfirst, hkind⟩ := decode_ok_any_second hdec 0#16
  have hlong : isLong (s.halfAt s.pc) = true := by
    rw [← (decode_ok.1 hdec).2, lengthOf_decodeRow] at hlen
    by_contra hshort
    simp [hshort] at hlen
  simp [fetch, hpc, hfirst, hkind, hi, hlong, hsecond]

end fetch

/-- Settles O2: each check is made on the first halfword alone, but for the last, which comes after all of them. -/
theorem stepChecksFetchInOrder : Obligations.StepChecksFetchInOrder := by
  refine ⟨fun s hpc => step_of_fetch_fault (fetch_unexecutable hpc),
    fun s J m f hpc hdec => step_of_fetch_refused (fetch_reserved hpc hdec), fun s J i hpc hdec hi => ?_,
    fun s J i hpc hdec hi hlen hsecond => step_of_fetch_fault (fetch_second_unexecutable hpc hdec hi hlen hsecond)⟩
  obtain ⟨hfetch, hrow⟩ := fetch_unassigned hpc hdec hi
  have hhead : (encode (decodeRow (s.halfAt s.pc) 0#16)).head? = some (s.halfAt s.pc) := by
    rw [encode_decodeRow, head?_wordsOf]
  exact raises_of_eq ((step_of_fetch hfetch).trans (exec_unassigned s hrow hhead))

/-! ## The level, prior and the BCD carries (60_exceptions.md R320) -/

/-- The fields of the status word other than the codes are the same. -/
def StatusKept (s t : State) : Prop := t.level = s.level ∧ t.prior = s.prior ∧ t.bcd = s.bcd

theorem BeforeWrites.status {s s' : State} (h : BeforeWrites s s') : StatusKept s s' := by
  rcases h with rfl | rfl <;> exact ⟨rfl, rfl, rfl⟩

theorem State.writeWord_status (s : State) (ea v : Word) : StatusKept s (s.writeWord ea v) := by
  rcases s.writeWord_cases ea v with ⟨-, h⟩ | ⟨-, h⟩ <;> rw [h] <;> exact ⟨rfl, rfl, rfl⟩

theorem State.cpuWrite_status {k : Nibble} (hk : k ≠ 0#4) (s : State) (v : Word) : StatusKept s (s.cpuWrite k v) := by
  rcases s.cpuWrite_cases k v with ⟨h0, -⟩ | ⟨-, h⟩
  · exact absurd h0 hk
  · exact h ▸ ⟨rfl, rfl, rfl⟩

/-- Where faults are terminal, what writes level, prior or the BCD carries is the return from trap, which writes the
level alone, or a write of the status word. -/
theorem Change.status {i : Instr} {s t : State} (h : Change i s t) (hterminal : TrapsTerminal s)
    (hi : ∀ r, i ≠ .cpuset r 0#4) :
    (writesLevel i = false → t.level = s.level) ∧ t.prior = s.prior ∧ t.bcd = s.bcd := by
  suffices hkept : StatusKept s t ∨ writesLevel i = true ∧ t.prior = s.prior ∧ t.bcd = s.bcd by
    rcases hkept with ⟨hlevel, hrest⟩ | ⟨hwrites, hrest⟩
    · exact ⟨fun _ => hlevel, hrest⟩
    · exact ⟨fun hno => absurd hwrites (by simp [hno]), hrest⟩
  cases h with
  | trap hs htrap => exact absurd htrap (raise_ne_next hs hterminal)
  | register hs | registerCc hs | reserve hs | transfer hs => exact .inl hs.status
  | returnFromTrap _ hlevel => exact .inr ⟨hlevel, rfl, rfl⟩
  | store _ ea v => exact .inl (s.writeWord_status ea v)
  | storeConditional _ _ ea v hstored =>
    rcases hstored with rfl | rfl
    · exact .inl ⟨rfl, rfl, rfl⟩
    · exact .inl (s.writeWord_status ea v)
  | coset => exact .inl ⟨rfl, rfl, rfl⟩
  | cpuset hcpuset v => exact .inl (State.cpuWrite_status (fun hk => hi _ (hk ▸ hcpuset)) s v)

/-- Settles O16: CPUSET of the status word is one of the instructions that write the level. -/
theorem onlyRttAndCpusetChangeLevel : Obligations.OnlyRttAndCpusetChangeLevel := by
  intro i s t hterminal hexec
  have hstatus := (exec_change hexec).status hterminal
  refine ⟨fun hi => (hstatus ?_).1 hi, fun hi => (hstatus hi).2⟩
  rintro r rfl
  cases hi

/-! ## Which instructions fault (60_exceptions.md R300, R308) -/

/-- What R300 says of a fault of an instruction: that its row names the instruction, and what it records. -/
def FaultListed (i : Instr) : Fault → Prop
  | .illegal I => isUnassigned i = true ∧ (encode i).head? = some I
  | .bus a => (loadsFromMemory i = true ∨ storesToMemory i = true) ∧ a &&& 3#32 = 0#32
  | .pcOdd v => mayJumpOdd i = true ∧ v[0] = true
  | .priv I => consultsPriv i = true ∧ encode i = [I]
  | .coproc k => (∃ r, i = .coget r k) ∨ (∃ r, i = .coset r k)

/-- A listed fault, raised before anything is written, makes `f` the outcome. -/
def RaisesListed (i : Instr) (s : State) (f : Fault) : Prop :=
  ∃ s' g, BeforeWrites s s' ∧ raise s' g = .fault f ∧ FaultListed i g

/-- Where faults are terminal, the outcome is the fault raised. -/
theorem RaisesListed.listed {i : Instr} {s : State} {f : Fault} (h : RaisesListed i s f)
    (hterminal : TrapsTerminal s) : FaultListed i f := by
  obtain ⟨s', g, hs, hraise, hlisted⟩ := h
  have hnone : trapVector s'.config.traps g = none := hs.config ▸ hterminal g
  cases (raise_terminal hnone).symm.trans hraise
  exact hlisted

theorem requireNz_fault {m : String} {g : Field} {n : Nibble} {k : Result} {f : Fault}
    (h : requireNz m g n k = .fault f) : n ≠ 0#4 ∧ k = .fault f := by
  unfold requireNz at h
  split at h
  · cases h
  · next hn => exact ⟨hn, h⟩

theorem wordAlign_and_three (a : Word) : wordAlign a &&& 3#32 = 0#32 := by
  rw [wordAlign, BitVec.and_assoc]
  exact BitVec.and_zero

section shapes

variable {i : Instr} {s s' : State} {f : Fault}

theorem raisesListed_of_jump {u : State} {target : Word} (hs : BeforeWrites s s') (hi : mayJumpOdd i = true)
    (h : jump s' u target = .fault f) : RaisesListed i s f := by
  unfold jump at h
  split at h
  · next hodd => exact ⟨s', _, hs, h, hi, hodd⟩
  · cases h

theorem raisesListed_of_finishRegOrPc {len v : Word} {dst : Nibble} (hs : BeforeWrites s s')
    (hi : dst = 0#4 → mayJumpOdd i = true) (h : finishRegOrPc s' len dst v = .fault f) : RaisesListed i s f := by
  unfold finishRegOrPc at h
  split at h
  · next hdst => exact raisesListed_of_jump hs (hi hdst) h
  · cases h

theorem raisesListed_of_loadThen {ea : Word} {k : Word → State → Result} (hi : loadsFromMemory i = true)
    (h : loadThen s ea k = .fault f)
    (hk : ∀ v s', BeforeWrites s s' → k v s' = .fault f → RaisesListed i s f) : RaisesListed i s f := by
  unfold loadThen at h
  split at h
  · exact hk _ _ (s.afterRead_cases ea) h
  · exact ⟨s, _, .inl rfl, h, .inl hi, wordAlign_and_three ea⟩

/-- LOADS and LOAD, whose zero field loads pc (30_encoding.md R99). -/
theorem raisesListed_of_loadRegOrPc {ea len : Word} {dst : Nibble} (hi : loadsFromMemory i = true)
    (hodd : dst = 0#4 → mayJumpOdd i = true)
    (h : loadThen s ea (fun v s' => finishRegOrPc s' len dst v) = .fault f) : RaisesListed i s f :=
  raisesListed_of_loadThen hi h fun _ _ hs hload => raisesListed_of_finishRegOrPc hs hodd hload

theorem raisesListed_of_loadRegCc {ea len : Word} {dst : Nibble} (hi : loadsFromMemory i = true)
    (h : loadThen s ea (fun v s' => finishRegCc s' len dst v (flagsNZ v (Config.ccLoadVC v))) = .fault f) :
    RaisesListed i s f :=
  raisesListed_of_loadThen hi h fun _ _ _ hload => nomatch hload

theorem raisesListed_of_storeThen {len ea v : Word} (hi : storesToMemory i = true)
    (h : storeThen s len ea v = .fault f) : RaisesListed i s f := by
  unfold storeThen at h
  split at h
  · cases h
  · exact ⟨s, _, .inl rfl, h, .inr hi, wordAlign_and_three ea⟩

theorem raisesListed_of_execStorec {srcx x : Nibble} (h : execStorec srcx x s = .fault f) :
    RaisesListed (.storec srcx x) s f := by
  obtain ⟨-, h⟩ := requireNz_fault h
  dsimp only at h
  split at h
  · exact ⟨s.draw, _, .inr rfl, h, .inr rfl, wordAlign_and_three _⟩
  · cases h

theorem raisesListed_of_execCoget {dst src : Nibble} (h : execCoget dst src s = .fault f) :
    RaisesListed (.coget dst src) s f := by
  unfold execCoget at h
  split at h
  · exact ⟨s, _, .inl rfl, h, rfl, rfl⟩
  · split at h
    · exact ⟨s, _, .inl rfl, h, .inl ⟨dst, rfl⟩⟩
    · cases h

theorem raisesListed_of_execCoset {srcx src : Nibble} (h : execCoset srcx src s = .fault f) :
    RaisesListed (.coset srcx src) s f := by
  unfold execCoset at h
  split at h
  · exact ⟨s, _, .inl rfl, h, rfl, rfl⟩
  · split at h
    · exact ⟨s, _, .inl rfl, h, .inr ⟨srcx, rfl⟩⟩
    · cases h

/-- CPUGET, under its own name and as RTT (48_special.md R249, R251). -/
theorem raisesListed_of_execCpuget {dst src : Nibble} (hpriv : consultsPriv i = true)
    (hwords : encode i = [halfOf 1#4 src 1#4 dst]) (hodd : dst = 0#4 → mayJumpOdd i = true)
    (h : execCpuget dst src s = .fault f) : RaisesListed i s f := by
  have hdenied (h : raise s (.priv (halfOf 1#4 src 1#4 dst)) = .fault f) : RaisesListed i s f :=
    ⟨s, _, .inl rfl, h, hpriv, hwords⟩
  unfold execCpuget at h
  split at h
  · exact hdenied h
  split at h
  · next hdst =>
    split at h
    · split at h
      · exact hdenied h
      · exact raisesListed_of_jump (.inl rfl) (hodd hdst) h
    · cases h
  · split at h <;> cases h

theorem raisesListed_of_execCpuset {srcx src : Nibble} (h : execCpuset srcx src s = .fault f) :
    RaisesListed (.cpuset srcx src) s f := by
  unfold execCpuset at h
  split at h
  · exact ⟨s, _, .inl rfl, h, rfl, rfl⟩
  · split at h <;> cases h

/-- With a register to write, neither instruction of LIW jumps (42_immediate.md R174). -/
theorem execLiw_ne_fault {dst : Nibble} {w : Word} : execLiw dst w s ≠ .fault f := by
  intro h
  obtain ⟨hdst, -⟩ := requireNz_fault h
  obtain ⟨t, hnext, -⟩ := execLiw_runs hdst w s
  cases hnext.symm.trans h

end shapes

/-- Every fault an instruction can raise, said once for all of them. -/
theorem exec_fault {i : Instr} {s : State} {f : Fault} (h : exec i s = .fault f) : RaisesListed i s f := by
  cases i
  case unassignedMem1 | unassignedMem0 | unassignedTwoReg | unassignedBranch =>
    exact ⟨s, _, .inl rfl, h, rfl, rfl⟩
  case loads | load => exact raisesListed_of_loadRegOrPc rfl beq_iff_eq.2 h
  case loadscc | loadcc | tests | test => exact raisesListed_of_loadRegCc rfl h
  case loadl => exact raisesListed_of_loadThen rfl (requireNz_fault h).2 fun _ _ _ hload => nomatch hload
  case stores => exact raisesListed_of_storeThen rfl (requireNz_fault h).2
  case store => exact raisesListed_of_storeThen rfl h
  case storec => exact raisesListed_of_execStorec h
  case lil => exact raisesListed_of_finishRegOrPc (.inl rfl) beq_iff_eq.2 h
  case jsrs | jsr | jumps | jump => exact raisesListed_of_jump (.inl rfl) rfl h
  case coget => exact raisesListed_of_execCoget h
  case coset => exact raisesListed_of_execCoset h
  case cpuget => exact raisesListed_of_execCpuget rfl rfl beq_iff_eq.2 h
  case rtt => exact raisesListed_of_execCpuget rfl rfl (fun _ => rfl) h
  case cpuset => exact raisesListed_of_execCpuset h
  -- the rest do not fault: a register or pc is written and no access is made (R308)
  case liw => exact absurd h execLiw_ne_fault
  case add | and | or => cases (requireNz_fault (requireNz_fault h).2).2
  case move | lea | lis | oris | stuffb | stuffh | plus | clr | movesl | addsl | extb | exth | sub | trunc | sxt
      | btrunc | addsi | equ | sl | bittstHigh | neg | cmp | not =>
    cases (requireNz_fault h).2
  case adjust =>
    obtain ⟨-, h⟩ := requireNz_fault h
    split at h <;> cases h
  case bbs bit disp => cases (execBbs_eq_branchIf bit disp s).symm.trans h
  case bbr bit disp => cases (execBbr_eq_branchIf bit disp s).symm.trans h
  case movecc | leacc | addsr | addsru | addc | subb | testr | bittst31 | addi | cmpi | sr | sru | bittstLow | rol =>
    cases h
  case br | bns | bzs | bvs | bcs | blt | ble | bleu | bnr | bzr | bvr | bcr | bge | bgt | bgtu | bltu | bne | bgeu
      | beq | nop =>
    cases h

/-- Settles O18: every fault of an instruction is a listed one, and no handler makes another of it. -/
theorem faultsComeOnlyFromListedInstructions : Obligations.FaultsComeOnlyFromListedInstructions := by
  intro i s f hterminal hexec
  have hlisted := (exec_fault hexec).listed hterminal
  cases f <;> exact hlisted

end Sys2Proof.Machine
end
